-- ==== Sys2Proof/Word.lean ====
section
/-! DEFINITION. The two word types of the machine: a datum on the bus is one byte, an address is 16 bits
(00_scope.md R11). -/

namespace Sys2Proof

/-- A byte: what the bus moves, and the width of `A`, `X`, `Y` and `SP` (R11). -/
abbrev Byte := BitVec 8

/-- A word: an address, and the width of `PC` (R11). -/
abbrev Word := BitVec 16

end Sys2Proof
end

