-- ==== Sys2Proof/Machine/Bits.lean ====
section
/-! DEFINITION. Byte order, extension and the single bits of a byte (00_scope.md R14-R16). -/

namespace Sys2Proof.Machine

/-- The word `hi:lo` (R15). -/
def hiLo (hi lo : Byte) : Word := hi ++ lo

/-- `lo8(w)`, the low byte of a word (R15). -/
def lo8 (w : Word) : Byte := w.extractLsb' 0 8

/-- `hi8(w)`, the high byte of a word (R15). -/
def hi8 (w : Word) : Byte := w.extractLsb' 8 8

/-- `zext_16(b)` (R16). -/
def zext16 (b : Byte) : Word := b.setWidth 16

/-- `sext_16(b)` (R16). -/
def sext16 (b : Byte) : Word := b.signExtend 16

/-- Bit 7 of a byte: its sign (R14). -/
def sign (b : Byte) : Bool := b.getLsbD 7

/-- A flag as the number 0 or 1 (R17). -/
def bit01 (f : Bool) : Nat := if f then 1 else 0

end Sys2Proof.Machine
end

