-- ==== Sys2Proof/Config.lean ====
section
/-! DEFINITION. What an implementation fixes: the configuration record `Cfg` of 00_scope.md R12, and the one free
value the spec leaves to a draw. The default values stand in Sys2Proof/Machine/Defaults.lean. -/

namespace Sys2Proof

/-- The twelve resolver tags of 30_encoding.md R301 (the accumulator form of the shifts is `imp`, 90_conflicts.md C1). -/
inductive Mode where
  | imp | imm | zp0 | zpx | zpy | rel | abs | abx | aby | ind | izx | izy
  deriving DecidableEq, Repr

/-- `FLAG_LAYOUT` (10_state.md R112): which bit of the packed status byte each flag takes. -/
inductive FlagLayout where
  | nmos
  | listing
  deriving DecidableEq, Repr

/-- A cycle count that the configuration requires to be at least 1 (R12, 30_encoding.md R311). -/
abbrev Ticks := { n : Nat // 1 ≤ n }

/-- The configuration record of 00_scope.md R12. The two per-opcode maps are lists of exceptions to their default
(`Cfg.illegalMode` and `Cfg.illegalCyclesOf` read them), so that the record is plain data. -/
structure Cfg where
  /-- `FLAG_LAYOUT`, decision D1. -/
  flagLayout : FlagLayout
  /-- `BRK_VECTOR_SWAPPED`, decision D2. -/
  brkVectorSwapped : Bool
  /-- `PLA_ZERO_DEFECT`, decision D3. -/
  plaZeroDefect : Bool
  /-- `RESET_SP`, decision D4. -/
  resetSp : Byte
  /-- `RESET_CYCLES`, decision D5. -/
  resetCycles : Ticks
  /-- `ILLEGAL_MODE`, decision D6: the illegal opcodes whose mode is not the default. -/
  illegalModes : List (Byte × Mode)
  /-- `ILLEGAL_CYCLES`, decision D7: the illegal opcodes whose base count is not the default. -/
  illegalCycles : List (Byte × Ticks)
  deriving DecidableEq, Repr

/-- FREE VALUE (log 5). The draw that 46_stack.md R544 leaves open: whether `N` after a PLA under
`PLA_ZERO_DEFECT = true` is bit 7 of the pulled byte or 0. It is applied to State's counter `draws`. -/
opaque Config.freeBit : Nat → Bool

end Sys2Proof
end

