-- ==== Sys2Proof/Machine/Defaults.lean ====
section
/-! DEFINITION. The default configuration: the values 00_scope.md R12 gives for each field of `Cfg`. -/

namespace Sys2Proof

/-- The default values of R12. They are the spec's own decisions (D1-D7), not facts of the source (log 2). -/
def Cfg.default : Cfg where
  flagLayout := .nmos
  brkVectorSwapped := false
  plaZeroDefect := false
  resetSp := 0xFD
  resetCycles := ⟨8, by decide⟩
  illegalModes := []
  illegalCycles := []

end Sys2Proof
end

