-- ==== Sys2Proof/Syntax/Forms.lean ====
section
/-! DEFINITION. What an instruction is made of: the operation identifiers and descriptors of the dispatch table
(30_encoding.md R310) and the operand forms (R301). -/

namespace Sys2Proof

/-- The operation identifier of a descriptor (30_encoding.md R310): 56 mnemonics and the catch-all no-op. -/
inductive Operation where
  | adc | sbc | cmp | cpx | cpy | inc | dec | inx | iny | dex | dey
  | and | ora | eor | bit
  | asl | lsr | rol | ror
  | bcc | bcs | beq | bne | bmi | bpl | bvc | bvs
  | pha | php | pla | plp
  | lda | ldx | ldy | sta | stx | sty | tax | tay | tsx | txa | txs | tya
  | clc | cld | cli | clv | sec | sed | sei
  | jmp | jsr | rts | brk | rti
  | nop | illegal
  deriving DecidableEq, Repr

/-- A descriptor of the dispatch table: the triple (operation, addressing mode, base cycle count) of R310. -/
structure Descriptor where
  operation : Operation
  mode : Mode
  base : Nat
  deriving DecidableEq, Repr

/-- An operand form with its operand bytes (R301, R302). The two bytes `ll hh` of a three-byte form are held as the
word `hh:ll`. -/
inductive Operand where
  /-- No operand byte; the operand is the accumulator where there is one. -/
  | imp
  /-- `#$ii`. -/
  | imm (ii : Byte)
  /-- `$zz`. -/
  | zp0 (zz : Byte)
  /-- `$zz,X`. -/
  | zpx (zz : Byte)
  /-- `$zz,Y`. -/
  | zpy (zz : Byte)
  /-- A signed displacement. -/
  | rel (rr : Byte)
  /-- `$hhll`. -/
  | abs (hhll : Word)
  /-- `$hhll,X`. -/
  | abx (hhll : Word)
  /-- `$hhll,Y`. -/
  | aby (hhll : Word)
  /-- `($hhll)`. -/
  | ind (hhll : Word)
  /-- `($zz,X)`. -/
  | izx (zz : Byte)
  /-- `($zz),Y`. -/
  | izy (zz : Byte)
  deriving DecidableEq, Repr

/-- The addressing mode of an operand form. -/
def Operand.mode : Operand → Mode
  | .imp => .imp
  | .imm _ => .imm
  | .zp0 _ => .zp0
  | .zpx _ => .zpx
  | .zpy _ => .zpy
  | .rel _ => .rel
  | .abs _ => .abs
  | .abx _ => .abx
  | .aby _ => .aby
  | .ind _ => .ind
  | .izx _ => .izx
  | .izy _ => .izy

end Sys2Proof
end

