-- ==== Sys2Proof/Syntax.lean ====
section
/-! DEFINITION. The instructions as syntax. The 256 rows of opcode_table.json are the pairs of a constructor of `Instr`
and one of its operand forms (for ILLEGAL also the opcode byte): log 1. -/

namespace Sys2Proof

/-- The instruction set: the 56 documented mnemonics and ILLEGAL (30_encoding.md R312, R315). An instruction with
several forms carries its operand form; one with a single form carries that form's operand, if it has one. -/
inductive Instr where
  /-- ADC, add with carry (42_arithmetic.md R450). -/
  | adc (o : Operand)
  /-- SBC, subtract with carry (42_arithmetic.md R451). -/
  | sbc (o : Operand)
  /-- CMP, compare the accumulator (42_arithmetic.md R452). -/
  | cmp (o : Operand)
  /-- CPX, compare index X (42_arithmetic.md R453). -/
  | cpx (o : Operand)
  /-- CPY, compare index Y (42_arithmetic.md R454). -/
  | cpy (o : Operand)
  /-- INC, increment memory (42_arithmetic.md R455). -/
  | inc (o : Operand)
  /-- DEC, decrement memory (42_arithmetic.md R456). -/
  | dec (o : Operand)
  /-- INX, increment X (42_arithmetic.md R457). -/
  | inx
  /-- INY, increment Y (42_arithmetic.md R458). -/
  | iny
  /-- DEX, decrement X (42_arithmetic.md R459). -/
  | dex
  /-- DEY, decrement Y (42_arithmetic.md R460). -/
  | dey
  /-- AND, AND with the accumulator (43_logic.md R480). -/
  | and (o : Operand)
  /-- ORA, OR with the accumulator (43_logic.md R481). -/
  | ora (o : Operand)
  /-- EOR, exclusive OR with the accumulator (43_logic.md R482). -/
  | eor (o : Operand)
  /-- BIT, test bits against the accumulator (43_logic.md R483). -/
  | bit (o : Operand)
  /-- ASL, arithmetic shift left (44_shift.md R500). -/
  | asl (o : Operand)
  /-- LSR, logical shift right (44_shift.md R501). -/
  | lsr (o : Operand)
  /-- ROL, rotate left through carry (44_shift.md R502). -/
  | rol (o : Operand)
  /-- ROR, rotate right through carry (44_shift.md R503). -/
  | ror (o : Operand)
  /-- BCC, branch if C = 0 (45_branch.md R521). -/
  | bcc (rr : Byte)
  /-- BCS, branch if C = 1 (45_branch.md R522). -/
  | bcs (rr : Byte)
  /-- BEQ, branch if Z = 1 (45_branch.md R523). -/
  | beq (rr : Byte)
  /-- BNE, branch if Z = 0 (45_branch.md R524). -/
  | bne (rr : Byte)
  /-- BMI, branch if N = 1 (45_branch.md R525). -/
  | bmi (rr : Byte)
  /-- BPL, branch if N = 0 (45_branch.md R526). -/
  | bpl (rr : Byte)
  /-- BVC, branch if V = 0 (45_branch.md R527). -/
  | bvc (rr : Byte)
  /-- BVS, branch if V = 1 (45_branch.md R528). -/
  | bvs (rr : Byte)
  /-- PHA, push A (46_stack.md R541). -/
  | pha
  /-- PHP, push the status (46_stack.md R542). -/
  | php
  /-- PLA, pull A (R543; R544 under PLA_ZERO_DEFECT) (46_stack.md R543). -/
  | pla
  /-- PLP, pull the status (46_stack.md R545). -/
  | plp
  /-- LDA, load A (47_load_store_transfer.md R560). -/
  | lda (o : Operand)
  /-- LDX, load X (47_load_store_transfer.md R561). -/
  | ldx (o : Operand)
  /-- LDY, load Y (47_load_store_transfer.md R562). -/
  | ldy (o : Operand)
  /-- STA, store A (47_load_store_transfer.md R563). -/
  | sta (o : Operand)
  /-- STX, store X (47_load_store_transfer.md R564). -/
  | stx (o : Operand)
  /-- STY, store Y (47_load_store_transfer.md R565). -/
  | sty (o : Operand)
  /-- TAX, A to X (47_load_store_transfer.md R566). -/
  | tax
  /-- TAY, A to Y (47_load_store_transfer.md R567). -/
  | tay
  /-- TSX, SP to X (47_load_store_transfer.md R568). -/
  | tsx
  /-- TXA, X to A (47_load_store_transfer.md R569). -/
  | txa
  /-- TXS, X to SP (47_load_store_transfer.md R570). -/
  | txs
  /-- TYA, Y to A (47_load_store_transfer.md R571). -/
  | tya
  /-- CLC, C <- 0 (48_flags.md R600). -/
  | clc
  /-- CLD, D <- 0 (48_flags.md R601). -/
  | cld
  /-- CLI, I <- 0 (48_flags.md R602). -/
  | cli
  /-- CLV, V <- 0 (48_flags.md R603). -/
  | clv
  /-- SEC, C <- 1 (48_flags.md R604). -/
  | sec
  /-- SED, D <- 1 (48_flags.md R605). -/
  | sed
  /-- SEI, I <- 1 (48_flags.md R606). -/
  | sei
  /-- JMP, jump (49_jump_break.md R620). -/
  | jmp (o : Operand)
  /-- JSR, jump to subroutine (49_jump_break.md R621). -/
  | jsr (target : Word)
  /-- RTS, return from subroutine (49_jump_break.md R622). -/
  | rts
  /-- BRK, software break (49_jump_break.md R632). -/
  | brk
  /-- RTI, return from interrupt (49_jump_break.md R633). -/
  | rti
  /-- NOP, no operation (40_engine.md R410). -/
  | nop
  /-- ILLEGAL, the catch-all no-op (40_engine.md R411). -/
  | illegal (op : Byte) (o : Operand)
  deriving DecidableEq, Repr

/-- The operation identifier of an instruction. -/
def Instr.operation : Instr → Operation
  | .adc _ => .adc
  | .sbc _ => .sbc
  | .cmp _ => .cmp
  | .cpx _ => .cpx
  | .cpy _ => .cpy
  | .inc _ => .inc
  | .dec _ => .dec
  | .inx => .inx
  | .iny => .iny
  | .dex => .dex
  | .dey => .dey
  | .and _ => .and
  | .ora _ => .ora
  | .eor _ => .eor
  | .bit _ => .bit
  | .asl _ => .asl
  | .lsr _ => .lsr
  | .rol _ => .rol
  | .ror _ => .ror
  | .bcc _ => .bcc
  | .bcs _ => .bcs
  | .beq _ => .beq
  | .bne _ => .bne
  | .bmi _ => .bmi
  | .bpl _ => .bpl
  | .bvc _ => .bvc
  | .bvs _ => .bvs
  | .pha => .pha
  | .php => .php
  | .pla => .pla
  | .plp => .plp
  | .lda _ => .lda
  | .ldx _ => .ldx
  | .ldy _ => .ldy
  | .sta _ => .sta
  | .stx _ => .stx
  | .sty _ => .sty
  | .tax => .tax
  | .tay => .tay
  | .tsx => .tsx
  | .txa => .txa
  | .txs => .txs
  | .tya => .tya
  | .clc => .clc
  | .cld => .cld
  | .cli => .cli
  | .clv => .clv
  | .sec => .sec
  | .sed => .sed
  | .sei => .sei
  | .jmp _ => .jmp
  | .jsr _ => .jsr
  | .rts => .rts
  | .brk => .brk
  | .rti => .rti
  | .nop => .nop
  | .illegal _ _ => .illegal

/-- The operand form of an instruction. -/
def Instr.operand : Instr → Operand
  | .adc o => o
  | .sbc o => o
  | .cmp o => o
  | .cpx o => o
  | .cpy o => o
  | .inc o => o
  | .dec o => o
  | .inx => .imp
  | .iny => .imp
  | .dex => .imp
  | .dey => .imp
  | .and o => o
  | .ora o => o
  | .eor o => o
  | .bit o => o
  | .asl o => o
  | .lsr o => o
  | .rol o => o
  | .ror o => o
  | .bcc rr => .rel rr
  | .bcs rr => .rel rr
  | .beq rr => .rel rr
  | .bne rr => .rel rr
  | .bmi rr => .rel rr
  | .bpl rr => .rel rr
  | .bvc rr => .rel rr
  | .bvs rr => .rel rr
  | .pha => .imp
  | .php => .imp
  | .pla => .imp
  | .plp => .imp
  | .lda o => o
  | .ldx o => o
  | .ldy o => o
  | .sta o => o
  | .stx o => o
  | .sty o => o
  | .tax => .imp
  | .tay => .imp
  | .tsx => .imp
  | .txa => .imp
  | .txs => .imp
  | .tya => .imp
  | .clc => .imp
  | .cld => .imp
  | .cli => .imp
  | .clv => .imp
  | .sec => .imp
  | .sed => .imp
  | .sei => .imp
  | .jmp o => o
  | .jsr target => .abs target
  | .rts => .imp
  | .brk => .imp
  | .rti => .imp
  | .nop => .imp
  | .illegal _ o => o

/-- The addressing mode of an instruction. -/
def Instr.mode (i : Instr) : Mode := i.operand.mode

end Sys2Proof
end

