-- ==== Sys2Proof/WellFormed.lean ====
section
/-! DEFINITION. Which instruction terms are instructions: the operand forms each mnemonic has (30_encoding.md R312, the
table by mnemonic) and the opcodes that are ILLEGAL (R315). -/

namespace Sys2Proof

/-- Every mode. -/
def Mode.all : List Mode := [.imp, .imm, .zp0, .zpx, .zpy, .rel, .abs, .abx, .aby, .ind, .izx, .izy]

/-- The modes of each operation (R312, the table by mnemonic; for ILLEGAL any mode, as `ILLEGAL_MODE` may give, D6). -/
def Operation.modes : Operation → List Mode
  | .adc => [.imm, .zp0, .zpx, .abs, .abx, .aby, .izx, .izy]
  | .sbc => [.imm, .zp0, .zpx, .abs, .abx, .aby, .izx, .izy]
  | .cmp => [.imm, .zp0, .zpx, .abs, .abx, .aby, .izx, .izy]
  | .cpx => [.imm, .zp0, .abs]
  | .cpy => [.imm, .zp0, .abs]
  | .inc => [.zp0, .zpx, .abs, .abx]
  | .dec => [.zp0, .zpx, .abs, .abx]
  | .inx => [.imp]
  | .iny => [.imp]
  | .dex => [.imp]
  | .dey => [.imp]
  | .and => [.imm, .zp0, .zpx, .abs, .abx, .aby, .izx, .izy]
  | .ora => [.imm, .zp0, .zpx, .abs, .abx, .aby, .izx, .izy]
  | .eor => [.imm, .zp0, .zpx, .abs, .abx, .aby, .izx, .izy]
  | .bit => [.zp0, .abs]
  | .asl => [.imp, .zp0, .zpx, .abs, .abx]
  | .lsr => [.imp, .zp0, .zpx, .abs, .abx]
  | .rol => [.imp, .zp0, .zpx, .abs, .abx]
  | .ror => [.imp, .zp0, .zpx, .abs, .abx]
  | .bcc => [.rel]
  | .bcs => [.rel]
  | .beq => [.rel]
  | .bne => [.rel]
  | .bmi => [.rel]
  | .bpl => [.rel]
  | .bvc => [.rel]
  | .bvs => [.rel]
  | .pha => [.imp]
  | .php => [.imp]
  | .pla => [.imp]
  | .plp => [.imp]
  | .lda => [.imm, .zp0, .zpx, .abs, .abx, .aby, .izx, .izy]
  | .ldx => [.imm, .zp0, .zpy, .abs, .aby]
  | .ldy => [.imm, .zp0, .zpx, .abs, .abx]
  | .sta => [.zp0, .zpx, .abs, .abx, .aby, .izx, .izy]
  | .stx => [.zp0, .zpy, .abs]
  | .sty => [.zp0, .zpx, .abs]
  | .tax => [.imp]
  | .tay => [.imp]
  | .tsx => [.imp]
  | .txa => [.imp]
  | .txs => [.imp]
  | .tya => [.imp]
  | .clc => [.imp]
  | .cld => [.imp]
  | .cli => [.imp]
  | .clv => [.imp]
  | .sec => [.imp]
  | .sed => [.imp]
  | .sei => [.imp]
  | .jmp => [.abs, .ind]
  | .jsr => [.abs]
  | .rts => [.imp]
  | .brk => [.imp]
  | .rti => [.imp]
  | .nop => [.imp]
  | .illegal => Mode.all

/-- The 105 opcodes with no official meaning (R315). -/
def illegalOpcodes : List Byte :=
  [0x02, 0x03, 0x04, 0x07, 0x0b, 0x0c, 0x0f, 0x12, 0x13, 0x14, 0x17, 0x1a, 0x1b, 0x1c, 0x1f] ++
  [0x22, 0x23, 0x27, 0x2b, 0x2f, 0x32, 0x33, 0x34, 0x37, 0x3a, 0x3b, 0x3c, 0x3f, 0x42, 0x43] ++
  [0x44, 0x47, 0x4b, 0x4f, 0x52, 0x53, 0x54, 0x57, 0x5a, 0x5b, 0x5c, 0x5f, 0x62, 0x63, 0x64] ++
  [0x67, 0x6b, 0x6f, 0x72, 0x73, 0x74, 0x77, 0x7a, 0x7b, 0x7c, 0x7f, 0x80, 0x82, 0x83, 0x87] ++
  [0x89, 0x8b, 0x8f, 0x92, 0x93, 0x97, 0x9b, 0x9c, 0x9e, 0x9f, 0xa3, 0xa7, 0xab, 0xaf, 0xb2] ++
  [0xb3, 0xb7, 0xbb, 0xbf, 0xc2, 0xc3, 0xc7, 0xcb, 0xcf, 0xd2, 0xd3, 0xd4, 0xd7, 0xda, 0xdb] ++
  [0xdc, 0xdf, 0xe2, 0xe3, 0xe7, 0xeb, 0xef, 0xf2, 0xf3, 0xf4, 0xf7, 0xfa, 0xfb, 0xfc, 0xff]

/-- The opcode byte an ILLEGAL carries is one of the 105; other instructions carry none. -/
def Instr.opcodeByteOk : Instr → Bool
  | .illegal op _ => illegalOpcodes.contains op
  | .adc _ => true
  | .sbc _ => true
  | .cmp _ => true
  | .cpx _ => true
  | .cpy _ => true
  | .inc _ => true
  | .dec _ => true
  | .inx => true
  | .iny => true
  | .dex => true
  | .dey => true
  | .and _ => true
  | .ora _ => true
  | .eor _ => true
  | .bit _ => true
  | .asl _ => true
  | .lsr _ => true
  | .rol _ => true
  | .ror _ => true
  | .bcc _ => true
  | .bcs _ => true
  | .beq _ => true
  | .bne _ => true
  | .bmi _ => true
  | .bpl _ => true
  | .bvc _ => true
  | .bvs _ => true
  | .pha => true
  | .php => true
  | .pla => true
  | .plp => true
  | .lda _ => true
  | .ldx _ => true
  | .ldy _ => true
  | .sta _ => true
  | .stx _ => true
  | .sty _ => true
  | .tax => true
  | .tay => true
  | .tsx => true
  | .txa => true
  | .txs => true
  | .tya => true
  | .clc => true
  | .cld => true
  | .cli => true
  | .clv => true
  | .sec => true
  | .sed => true
  | .sei => true
  | .jmp _ => true
  | .jsr _ => true
  | .rts => true
  | .brk => true
  | .rti => true
  | .nop => true

/-- An instruction is well formed when its mnemonic has its mode, and an ILLEGAL's opcode is an illegal one. -/
def Instr.wf (i : Instr) : Bool := i.operation.modes.contains i.mode && i.opcodeByteOk

end Sys2Proof
end

