-- ==== Sys2Proof/Decode.lean ====
section
/-! DEFINITION. The dispatch table (30_encoding.md R310-R315), the decoder, total on any bytes, and after it the
encoder, written from the other copy of the table (R312, by mnemonic). -/

namespace Sys2Proof

open Machine

/-! ## The dispatch table -/

/-- `ILLEGAL_MODE(op)`: IMP unless the configuration says otherwise (D6). -/
def Cfg.illegalMode (cfg : Cfg) (op : Byte) : Mode := (cfg.illegalModes.lookup op).getD .imp

/-- `ILLEGAL_CYCLES(op)`: 2 unless the configuration says otherwise (D7). -/
def Cfg.illegalCyclesOf (cfg : Cfg) (op : Byte) : Ticks := (cfg.illegalCycles.lookup op).getD ⟨2, by decide⟩

/-- A cell of the opcode map. -/
def cell (operation : Operation) (mode : Mode) (base : Nat) : Option Descriptor := some ⟨operation, mode, base⟩

/-- Row 0x of the opcode map (R312). -/
def opcodeRow0 : List (Option Descriptor) :=
  [cell .brk .imp 7, cell .ora .izx 6, none, none,
   none, cell .ora .zp0 3, cell .asl .zp0 5, none,
   cell .php .imp 3, cell .ora .imm 2, cell .asl .imp 2, none,
   none, cell .ora .abs 4, cell .asl .abs 6, none]

/-- Row 1x of the opcode map (R312). -/
def opcodeRow1 : List (Option Descriptor) :=
  [cell .bpl .rel 2, cell .ora .izy 5, none, none,
   none, cell .ora .zpx 4, cell .asl .zpx 6, none,
   cell .clc .imp 2, cell .ora .aby 4, none, none,
   none, cell .ora .abx 4, cell .asl .abx 7, none]

/-- Row 2x of the opcode map (R312). -/
def opcodeRow2 : List (Option Descriptor) :=
  [cell .jsr .abs 6, cell .and .izx 6, none, none,
   cell .bit .zp0 3, cell .and .zp0 3, cell .rol .zp0 5, none,
   cell .plp .imp 4, cell .and .imm 2, cell .rol .imp 2, none,
   cell .bit .abs 4, cell .and .abs 4, cell .rol .abs 6, none]

/-- Row 3x of the opcode map (R312). -/
def opcodeRow3 : List (Option Descriptor) :=
  [cell .bmi .rel 2, cell .and .izy 5, none, none,
   none, cell .and .zpx 4, cell .rol .zpx 6, none,
   cell .sec .imp 2, cell .and .aby 4, none, none,
   none, cell .and .abx 4, cell .rol .abx 7, none]

/-- Row 4x of the opcode map (R312). -/
def opcodeRow4 : List (Option Descriptor) :=
  [cell .rti .imp 6, cell .eor .izx 6, none, none,
   none, cell .eor .zp0 3, cell .lsr .zp0 5, none,
   cell .pha .imp 3, cell .eor .imm 2, cell .lsr .imp 2, none,
   cell .jmp .abs 3, cell .eor .abs 4, cell .lsr .abs 6, none]

/-- Row 5x of the opcode map (R312). -/
def opcodeRow5 : List (Option Descriptor) :=
  [cell .bvc .rel 2, cell .eor .izy 5, none, none,
   none, cell .eor .zpx 4, cell .lsr .zpx 6, none,
   cell .cli .imp 2, cell .eor .aby 4, none, none,
   none, cell .eor .abx 4, cell .lsr .abx 7, none]

/-- Row 6x of the opcode map (R312). -/
def opcodeRow6 : List (Option Descriptor) :=
  [cell .rts .imp 6, cell .adc .izx 6, none, none,
   none, cell .adc .zp0 3, cell .ror .zp0 5, none,
   cell .pla .imp 4, cell .adc .imm 2, cell .ror .imp 2, none,
   cell .jmp .ind 5, cell .adc .abs 4, cell .ror .abs 6, none]

/-- Row 7x of the opcode map (R312). -/
def opcodeRow7 : List (Option Descriptor) :=
  [cell .bvs .rel 2, cell .adc .izy 5, none, none,
   none, cell .adc .zpx 4, cell .ror .zpx 6, none,
   cell .sei .imp 2, cell .adc .aby 4, none, none,
   none, cell .adc .abx 4, cell .ror .abx 7, none]

/-- Row 8x of the opcode map (R312). -/
def opcodeRow8 : List (Option Descriptor) :=
  [none, cell .sta .izx 6, none, none,
   cell .sty .zp0 3, cell .sta .zp0 3, cell .stx .zp0 3, none,
   cell .dey .imp 2, none, cell .txa .imp 2, none,
   cell .sty .abs 4, cell .sta .abs 4, cell .stx .abs 4, none]

/-- Row 9x of the opcode map (R312). -/
def opcodeRow9 : List (Option Descriptor) :=
  [cell .bcc .rel 2, cell .sta .izy 6, none, none,
   cell .sty .zpx 4, cell .sta .zpx 4, cell .stx .zpy 4, none,
   cell .tya .imp 2, cell .sta .aby 5, cell .txs .imp 2, none,
   none, cell .sta .abx 5, none, none]

/-- Row Ax of the opcode map (R312). -/
def opcodeRowA : List (Option Descriptor) :=
  [cell .ldy .imm 2, cell .lda .izx 6, cell .ldx .imm 2, none,
   cell .ldy .zp0 3, cell .lda .zp0 3, cell .ldx .zp0 3, none,
   cell .tay .imp 2, cell .lda .imm 2, cell .tax .imp 2, none,
   cell .ldy .abs 4, cell .lda .abs 4, cell .ldx .abs 4, none]

/-- Row Bx of the opcode map (R312). -/
def opcodeRowB : List (Option Descriptor) :=
  [cell .bcs .rel 2, cell .lda .izy 5, none, none,
   cell .ldy .zpx 4, cell .lda .zpx 4, cell .ldx .zpy 4, none,
   cell .clv .imp 2, cell .lda .aby 4, cell .tsx .imp 2, none,
   cell .ldy .abx 4, cell .lda .abx 4, cell .ldx .aby 4, none]

/-- Row Cx of the opcode map (R312). -/
def opcodeRowC : List (Option Descriptor) :=
  [cell .cpy .imm 2, cell .cmp .izx 6, none, none,
   cell .cpy .zp0 3, cell .cmp .zp0 3, cell .dec .zp0 5, none,
   cell .iny .imp 2, cell .cmp .imm 2, cell .dex .imp 2, none,
   cell .cpy .abs 4, cell .cmp .abs 4, cell .dec .abs 6, none]

/-- Row Dx of the opcode map (R312). -/
def opcodeRowD : List (Option Descriptor) :=
  [cell .bne .rel 2, cell .cmp .izy 5, none, none,
   none, cell .cmp .zpx 4, cell .dec .zpx 6, none,
   cell .cld .imp 2, cell .cmp .aby 4, none, none,
   none, cell .cmp .abx 4, cell .dec .abx 7, none]

/-- Row Ex of the opcode map (R312). -/
def opcodeRowE : List (Option Descriptor) :=
  [cell .cpx .imm 2, cell .sbc .izx 6, none, none,
   cell .cpx .zp0 3, cell .sbc .zp0 3, cell .inc .zp0 5, none,
   cell .inx .imp 2, cell .sbc .imm 2, cell .nop .imp 2, none,
   cell .cpx .abs 4, cell .sbc .abs 4, cell .inc .abs 6, none]

/-- Row Fx of the opcode map (R312). -/
def opcodeRowF : List (Option Descriptor) :=
  [cell .beq .rel 2, cell .sbc .izy 5, none, none,
   none, cell .sbc .zpx 4, cell .inc .zpx 6, none,
   cell .sed .imp 2, cell .sbc .aby 4, none, none,
   none, cell .sbc .abx 4, cell .inc .abx 7, none]

/-- The opcode map: the 151 documented opcodes at their places, `none` at the 105 others (R312). -/
def opcodeMap : List (Option Descriptor) :=
  opcodeRow0 ++ opcodeRow1 ++ opcodeRow2 ++ opcodeRow3 ++ opcodeRow4 ++ opcodeRow5 ++ opcodeRow6 ++ opcodeRow7 ++
  opcodeRow8 ++ opcodeRow9 ++ opcodeRowA ++ opcodeRowB ++ opcodeRowC ++ opcodeRowD ++ opcodeRowE ++ opcodeRowF

/-- The descriptor of an opcode. The table is complete: an opcode with no official meaning has the ILLEGAL no-op
(R310, R315). -/
def descriptor (cfg : Cfg) (op : Byte) : Descriptor :=
  match opcodeMap.getD op.toNat none with
  | some d => d
  | none => ⟨.illegal, cfg.illegalMode op, (cfg.illegalCyclesOf op).val⟩

/-- The rows of the opcode map that hold an operation: opcode, mode and base count, in the order of the opcodes. -/
def documentedRows (operation : Operation) : List (Byte × Mode × Nat) :=
  (List.range 256).filterMap fun n =>
    match opcodeMap.getD n none with
    | some d => if d.operation = operation then some (BitVec.ofNat 8 n, d.mode, d.base) else none
    | none => none

/-! ## Decoding -/

/-- How many operand bytes a mode takes (R304). -/
def Mode.operandBytes : Mode → Nat
  | .imp => 0
  | .imm => 1
  | .zp0 => 1
  | .zpx => 1
  | .zpy => 1
  | .rel => 1
  | .abs => 2
  | .abx => 2
  | .aby => 2
  | .ind => 2
  | .izx => 1
  | .izy => 1

/-- The operand form of a mode from the two bytes after the opcode (R301, R302): a mode uses the first
`operandBytes` of them. -/
def operandOf (mode : Mode) (b1 b2 : Byte) : Operand :=
  match mode with
  | .imp => .imp
  | .imm => .imm b1
  | .zp0 => .zp0 b1
  | .zpx => .zpx b1
  | .zpy => .zpy b1
  | .rel => .rel b1
  | .abs => .abs (hiLo b2 b1)
  | .abx => .abx (hiLo b2 b1)
  | .aby => .aby (hiLo b2 b1)
  | .ind => .ind (hiLo b2 b1)
  | .izx => .izx b1
  | .izy => .izy b1

/-- The instruction of an operation and a mode, from its opcode and the two bytes after it. -/
def assemble (operation : Operation) (mode : Mode) (op b1 b2 : Byte) : Instr :=
  match operation with
  | .adc => .adc (operandOf mode b1 b2)
  | .sbc => .sbc (operandOf mode b1 b2)
  | .cmp => .cmp (operandOf mode b1 b2)
  | .cpx => .cpx (operandOf mode b1 b2)
  | .cpy => .cpy (operandOf mode b1 b2)
  | .inc => .inc (operandOf mode b1 b2)
  | .dec => .dec (operandOf mode b1 b2)
  | .inx => .inx
  | .iny => .iny
  | .dex => .dex
  | .dey => .dey
  | .and => .and (operandOf mode b1 b2)
  | .ora => .ora (operandOf mode b1 b2)
  | .eor => .eor (operandOf mode b1 b2)
  | .bit => .bit (operandOf mode b1 b2)
  | .asl => .asl (operandOf mode b1 b2)
  | .lsr => .lsr (operandOf mode b1 b2)
  | .rol => .rol (operandOf mode b1 b2)
  | .ror => .ror (operandOf mode b1 b2)
  | .bcc => .bcc b1
  | .bcs => .bcs b1
  | .beq => .beq b1
  | .bne => .bne b1
  | .bmi => .bmi b1
  | .bpl => .bpl b1
  | .bvc => .bvc b1
  | .bvs => .bvs b1
  | .pha => .pha
  | .php => .php
  | .pla => .pla
  | .plp => .plp
  | .lda => .lda (operandOf mode b1 b2)
  | .ldx => .ldx (operandOf mode b1 b2)
  | .ldy => .ldy (operandOf mode b1 b2)
  | .sta => .sta (operandOf mode b1 b2)
  | .stx => .stx (operandOf mode b1 b2)
  | .sty => .sty (operandOf mode b1 b2)
  | .tax => .tax
  | .tay => .tay
  | .tsx => .tsx
  | .txa => .txa
  | .txs => .txs
  | .tya => .tya
  | .clc => .clc
  | .cld => .cld
  | .cli => .cli
  | .clv => .clv
  | .sec => .sec
  | .sed => .sed
  | .sei => .sei
  | .jmp => .jmp (operandOf mode b1 b2)
  | .jsr => .jsr (hiLo b2 b1)
  | .rts => .rts
  | .brk => .brk
  | .rti => .rti
  | .nop => .nop
  | .illegal => .illegal op (operandOf mode b1 b2)

/-- The instruction at an opcode and the two bytes after it. Every opcode has one (R310, R316). -/
def decodeBytes (cfg : Cfg) (op b1 b2 : Byte) : Instr :=
  assemble (descriptor cfg op).operation (descriptor cfg op).mode op b1 b2

/-- Why a list of bytes is not an instruction: only because it ends too early. -/
inductive DecodeError where
  /-- There is no opcode byte. -/
  | noOpcode
  /-- The opcode needs more operand bytes than there are (R304). -/
  | truncated (missing : Nat)
  deriving DecidableEq, Repr

/-- The decoder: the instruction at the front of a list of bytes, and the bytes after it. -/
def decode (cfg : Cfg) : List Byte → Except DecodeError (Instr × List Byte)
  | [] => .error .noOpcode
  | op :: rest =>
    match (descriptor cfg op).mode.operandBytes, rest with
    | 0, rest => .ok (decodeBytes cfg op 0 0, rest)
    | 1, b1 :: rest => .ok (decodeBytes cfg op b1 0, rest)
    | _ + 2, b1 :: b2 :: rest => .ok (decodeBytes cfg op b1 b2, rest)
    | n + 1, [] => .error (.truncated (n + 1))
    | n + 2, [_] => .error (.truncated (n + 1))

/-- The three bytes of an instruction whose bits opcode_table.json numbers from bit 0 of its first byte: the low
`nbits` bits of `w`, and zeros above them. -/
def tableBytes (nbits w : Nat) : List Byte :=
  let v := w % 2 ^ nbits
  [BitVec.ofNat 8 v, BitVec.ofNat 8 (v / 256), BitVec.ofNat 8 (v / 65536)]

/-- The instruction the decoder reads from a word numbered as opcode_table.json numbers it, under the default
configuration. -/
def decodeTableWord (nbits w : Nat) : Option Instr :=
  match decode Cfg.default (tableBytes nbits w) with
  | .ok (i, _) => some i
  | .error _ => none

/-! ## Encoding -/

/-- The opcodes of each operation (R312, the table by mnemonic). -/
def Operation.opcodes : Operation → List (Mode × Byte)
  | .adc => [(.imm, 0x69), (.zp0, 0x65), (.zpx, 0x75), (.abs, 0x6D), (.abx, 0x7D), (.aby, 0x79), (.izx, 0x61), (.izy, 0x71)]
  | .sbc => [(.imm, 0xE9), (.zp0, 0xE5), (.zpx, 0xF5), (.abs, 0xED), (.abx, 0xFD), (.aby, 0xF9), (.izx, 0xE1), (.izy, 0xF1)]
  | .cmp => [(.imm, 0xC9), (.zp0, 0xC5), (.zpx, 0xD5), (.abs, 0xCD), (.abx, 0xDD), (.aby, 0xD9), (.izx, 0xC1), (.izy, 0xD1)]
  | .cpx => [(.imm, 0xE0), (.zp0, 0xE4), (.abs, 0xEC)]
  | .cpy => [(.imm, 0xC0), (.zp0, 0xC4), (.abs, 0xCC)]
  | .inc => [(.zp0, 0xE6), (.zpx, 0xF6), (.abs, 0xEE), (.abx, 0xFE)]
  | .dec => [(.zp0, 0xC6), (.zpx, 0xD6), (.abs, 0xCE), (.abx, 0xDE)]
  | .inx => [(.imp, 0xE8)]
  | .iny => [(.imp, 0xC8)]
  | .dex => [(.imp, 0xCA)]
  | .dey => [(.imp, 0x88)]
  | .and => [(.imm, 0x29), (.zp0, 0x25), (.zpx, 0x35), (.abs, 0x2D), (.abx, 0x3D), (.aby, 0x39), (.izx, 0x21), (.izy, 0x31)]
  | .ora => [(.imm, 0x09), (.zp0, 0x05), (.zpx, 0x15), (.abs, 0x0D), (.abx, 0x1D), (.aby, 0x19), (.izx, 0x01), (.izy, 0x11)]
  | .eor => [(.imm, 0x49), (.zp0, 0x45), (.zpx, 0x55), (.abs, 0x4D), (.abx, 0x5D), (.aby, 0x59), (.izx, 0x41), (.izy, 0x51)]
  | .bit => [(.zp0, 0x24), (.abs, 0x2C)]
  | .asl => [(.imp, 0x0A), (.zp0, 0x06), (.zpx, 0x16), (.abs, 0x0E), (.abx, 0x1E)]
  | .lsr => [(.imp, 0x4A), (.zp0, 0x46), (.zpx, 0x56), (.abs, 0x4E), (.abx, 0x5E)]
  | .rol => [(.imp, 0x2A), (.zp0, 0x26), (.zpx, 0x36), (.abs, 0x2E), (.abx, 0x3E)]
  | .ror => [(.imp, 0x6A), (.zp0, 0x66), (.zpx, 0x76), (.abs, 0x6E), (.abx, 0x7E)]
  | .bcc => [(.rel, 0x90)]
  | .bcs => [(.rel, 0xB0)]
  | .beq => [(.rel, 0xF0)]
  | .bne => [(.rel, 0xD0)]
  | .bmi => [(.rel, 0x30)]
  | .bpl => [(.rel, 0x10)]
  | .bvc => [(.rel, 0x50)]
  | .bvs => [(.rel, 0x70)]
  | .pha => [(.imp, 0x48)]
  | .php => [(.imp, 0x08)]
  | .pla => [(.imp, 0x68)]
  | .plp => [(.imp, 0x28)]
  | .lda => [(.imm, 0xA9), (.zp0, 0xA5), (.zpx, 0xB5), (.abs, 0xAD), (.abx, 0xBD), (.aby, 0xB9), (.izx, 0xA1), (.izy, 0xB1)]
  | .ldx => [(.imm, 0xA2), (.zp0, 0xA6), (.zpy, 0xB6), (.abs, 0xAE), (.aby, 0xBE)]
  | .ldy => [(.imm, 0xA0), (.zp0, 0xA4), (.zpx, 0xB4), (.abs, 0xAC), (.abx, 0xBC)]
  | .sta => [(.zp0, 0x85), (.zpx, 0x95), (.abs, 0x8D), (.abx, 0x9D), (.aby, 0x99), (.izx, 0x81), (.izy, 0x91)]
  | .stx => [(.zp0, 0x86), (.zpy, 0x96), (.abs, 0x8E)]
  | .sty => [(.zp0, 0x84), (.zpx, 0x94), (.abs, 0x8C)]
  | .tax => [(.imp, 0xAA)]
  | .tay => [(.imp, 0xA8)]
  | .tsx => [(.imp, 0xBA)]
  | .txa => [(.imp, 0x8A)]
  | .txs => [(.imp, 0x9A)]
  | .tya => [(.imp, 0x98)]
  | .clc => [(.imp, 0x18)]
  | .cld => [(.imp, 0xD8)]
  | .cli => [(.imp, 0x58)]
  | .clv => [(.imp, 0xB8)]
  | .sec => [(.imp, 0x38)]
  | .sed => [(.imp, 0xF8)]
  | .sei => [(.imp, 0x78)]
  | .jmp => [(.abs, 0x4C), (.ind, 0x6C)]
  | .jsr => [(.abs, 0x20)]
  | .rts => [(.imp, 0x60)]
  | .brk => [(.imp, 0x00)]
  | .rti => [(.imp, 0x40)]
  | .nop => [(.imp, 0xEA)]
  | .illegal => []

/-- The opcode byte of an instruction: the one an ILLEGAL carries, and for a documented mnemonic the table's. -/
def Instr.opcode (i : Instr) : Option Byte :=
  match i with
  | .illegal op _ => some op
  | i => i.operation.opcodes.lookup i.mode

/-- The operand bytes of an operand form, low byte first (R301). -/
def Operand.bytes : Operand → List Byte
  | .imp => []
  | .imm ii => [ii]
  | .zp0 zz => [zz]
  | .zpx zz => [zz]
  | .zpy zz => [zz]
  | .rel rr => [rr]
  | .abs hhll => [lo8 hhll, hi8 hhll]
  | .abx hhll => [lo8 hhll, hi8 hhll]
  | .aby hhll => [lo8 hhll, hi8 hhll]
  | .ind hhll => [lo8 hhll, hi8 hhll]
  | .izx zz => [zz]
  | .izy zz => [zz]

/-- The bytes of a well-formed instruction (R300); no bytes for a term that is none. -/
def encode (i : Instr) : List Byte :=
  match i.opcode with
  | some op => op :: i.operand.bytes
  | none => []

/-- Whether a configuration gives an ILLEGAL the mode this term has (R315); true of every other instruction. -/
def Instr.fits (cfg : Cfg) (i : Instr) : Bool :=
  match i with
  | .illegal op o => o.mode = cfg.illegalMode op
  | _ => true

end Sys2Proof
end

