-- ==== Sys2Proof/Machine/State.lean ====
section
/-! DEFINITION. The state of the machine as plain data, the reasons a step can stop, and the state right after
reset (10_state.md; 20_memory.md R201, R222; 60_exceptions.md R726). -/

namespace Sys2Proof.Machine

/-- The names of the eight flags (10_state.md R109), in the order the source lists them. -/
inductive FlagName where
  | c | z | i | d | b | v | n | u
  deriving DecidableEq, Repr

/-- The eight status flags, each stored on its own (R109). -/
@[ext]
structure Flags where
  /-- Carry. -/
  c : Bool
  /-- Zero. -/
  z : Bool
  /-- InterruptDisable: masks nothing (R111). -/
  i : Bool
  /-- DecimalMode: stored but not acted upon (R111). -/
  d : Bool
  /-- Break. -/
  b : Bool
  /-- Overflow. -/
  v : Bool
  /-- Negative. -/
  n : Bool
  /-- Unused. -/
  u : Bool
  deriving DecidableEq, Repr

/-- The transient execution state of R117 other than `cycles`. No rule reads a value one of these held from an
earlier instruction (R119). -/
structure Scratch where
  /-- The last-fetched opcode. -/
  opcode : Byte
  /-- The last-fetched operand byte: what the IMP resolver copies `A` into (41_addressing.md R421). -/
  fetched : Byte
  /-- The resolved absolute address. -/
  addrAbs : Word
  /-- The resolved relative displacement. -/
  addrRel : Word
  /-- The wide accumulator `temp`, an unbounded integer (42_arithmetic.md R449). -/
  temp : Int
  deriving DecidableEq, Repr

/-- A byte of one of the two device windows (20_memory.md R201): byte `k` of the output-device window at 0x0400, or of
the drawing-device window at 0x0500. -/
inductive WindowCell where
  | output (k : Fin 5)
  | drawing (k : Fin 3)
  deriving DecidableEq, Repr

/-- A byte a peripheral writes into a window (20_memory.md R222). -/
structure WindowWrite where
  cell : WindowCell
  value : Byte
  deriving DecidableEq, Repr

/-- One action of the host (60_exceptions.md R726): what the driver calls, and for a tick what the peripherals write
after the CPU's part of it. -/
inductive HostInput where
  /-- `tick()`, with the peripherals' writes in their order (20_memory.md R221, R222). -/
  | tick (writes : List WindowWrite)
  /-- `reset()` (70_reset_and_hazards.md R801). -/
  | reset
  /-- The loader's bytes, to be written from 0x2000 upward (R812). -/
  | load (bytes : List Byte)
  deriving DecidableEq, Repr

/-- Whether the first reset has happened (10_state.md R126). -/
inductive Phase where
  /-- The bus is constructed and nothing is reset yet: the registers' values mean nothing. -/
  | constructed
  /-- A reset has happened: the run has begun. -/
  | running
  deriving DecidableEq, Repr

/-- The state of the machine. -/
@[ext]
structure State where
  /-- The program counter (R105). -/
  pc : Word
  /-- The stack pointer (R106). -/
  sp : Byte
  /-- The accumulator (R102). -/
  a : Byte
  /-- Index register X (R103). -/
  x : Byte
  /-- Index register Y (R104). -/
  y : Byte
  /-- The status flags (R109). -/
  flags : Flags
  /-- The remaining-cycles counter (R118). -/
  cycles : Nat
  /-- The rest of the transient execution state (R117). -/
  scratch : Scratch
  /-- Memory: the addresses that hold something other than 0x00, rising (20_memory.md R201; log 3). -/
  mem : List Host.Cell
  /-- The configuration, fixed for a run (00_scope.md R12; log 2). -/
  cfg : Cfg
  /-- Whether the first reset has happened (R126; log 7). -/
  phase : Phase
  /-- THE MODEL'S OWN: how many free values have been drawn (log 5). -/
  draws : Nat
  /-- THE MODEL'S OWN: what the host does on the coming steps, first the next one; when the list is empty the host
  goes on ticking and no peripheral writes (log 6). -/
  inputs : List HostInput
  deriving DecidableEq, Repr

/-- Faults. The core raises no exception and no operation in it aborts (60_exceptions.md R700), so there is none:
`step` and `exec` never answer a fault. -/
inductive Fault
  deriving DecidableEq, Repr

/-- Refusals. No instruction's meaning answers one; the last three are the spec's own "refuse" rows of
93_implementation_defined.md, which concern what the host does. -/
inductive Refusal where
  /-- Raised by `exec` for an instruction that has no meaning yet. Safe: the model stops. -/
  | notModelled (mnemonic : String)
  /-- Raised by `step` for a tick before the first reset (10_state.md R126, D25). Safe: the model stops. -/
  | tickBeforeReset
  /-- Raised by `step` for a program load once the run has begun: a host write outside the device windows
  (60_exceptions.md R726, D18). Safe: the model stops. -/
  | loadDuringRun
  /-- Raised by `step` for a program that would be loaded past 0xFFFF (70_reset_and_hazards.md R812, D19). Safe: the
  model stops. -/
  | loadPastTop
  deriving DecidableEq, Repr

/-- All eight flags clear (R125). -/
def Flags.clear : Flags := ⟨false, false, false, false, false, false, false, false⟩

/-- The scratch fields all zero (R125, D24). -/
def Scratch.zero : Scratch := ⟨0, 0, 0, 0, 0⟩

/-- The machine right after reset (R125), with memory that lists nothing, the default configuration and no host input
pending. `pc` is the reset vector's content in that memory (log 3, log 4). -/
def State.reset : State where
  pc := 0x0000
  sp := Cfg.default.resetSp
  a := 0x00
  x := 0x00
  y := 0x00
  flags := Flags.clear
  cycles := Cfg.default.resetCycles.val
  scratch := Scratch.zero
  mem := []
  cfg := Cfg.default
  phase := .running
  draws := 0
  inputs := []

end Sys2Proof.Machine
end

