-- ==== Sys2Proof/Machine/Flags.lean ====
section
/-! DEFINITION. The flag computations (10_state.md R112-R115, 42_arithmetic.md R449) and the packed status byte. -/

namespace Sys2Proof.Machine

/-- `SetZN(v)` (R115). -/
def Flags.setZN (f : Flags) (v : Byte) : Flags := { f with z := v = 0, n := sign v }

/-- The flags of an addition with the unbounded sum `temp` of `a`, `m` and the carry (R449, R450): `C` is the carry out
of bit 7, `V` says that the operands' signs agree and the result's differs. -/
def Flags.ofSum (f : Flags) (a m : Byte) (temp : Nat) : Flags :=
  { f.setZN (BitVec.ofNat 8 temp) with
    c := 255 < temp, v := sign a == sign m && temp.testBit 7 != sign a }

/-- The flags of comparing a register with an operand (R449, R452): `C` is unsigned greater or equal, `Z` and `N` are
those of the difference. -/
def Flags.ofCompare (f : Flags) (r m : Byte) : Flags :=
  { f.setZN (r - m) with c := m.toNat ≤ r.toNat }

/-- The flags of a shift or rotate with result `v` that moved the bit `out` out (44_shift.md R500-R503). -/
def Flags.ofShift (f : Flags) (v : Byte) (out : Bool) : Flags := { f.setZN v with c := out }

/-- All flag names. -/
def FlagName.all : List FlagName := [.c, .z, .i, .d, .b, .v, .n, .u]

/-- A flag by its name. -/
def Flags.get (f : Flags) : FlagName → Bool
  | .c => f.c
  | .z => f.z
  | .i => f.i
  | .d => f.d
  | .b => f.b
  | .v => f.v
  | .n => f.n
  | .u => f.u

/-- The bit position of each flag in the packed status byte (R112). -/
def flagBit (l : FlagLayout) (flag : FlagName) : Nat :=
  match l, flag with
  | _, .c => 0
  | _, .z => 1
  | _, .i => 2
  | _, .d => 3
  | _, .b => 4
  | .nmos, .u => 5
  | .nmos, .v => 6
  | .nmos, .n => 7
  | .listing, .v => 5
  | .listing, .n => 6
  | .listing, .u => 7

/-- The bit `Pack(forceB)` puts at a flag's place: 1 for `B` and `U` when they are forced, else the flag (R113). -/
def Flags.packedBit (f : Flags) (forceB : Bool) (flag : FlagName) : Bool :=
  if forceB && (flag = .b || flag = .u) then true else f.get flag

/-- `Pack(forceB)` (R113). -/
def Flags.pack (f : Flags) (l : FlagLayout) (forceB : Bool) : Byte :=
  FlagName.all.foldl (fun b flag => if f.packedBit forceB flag then b ||| 1#8 <<< flagBit l flag else b) 0

/-- `Unpack(b)`: all eight flags, `B` and `U` included (R114). -/
def unpackFlags (l : FlagLayout) (b : Byte) : Flags where
  c := b.getLsbD (flagBit l .c)
  z := b.getLsbD (flagBit l .z)
  i := b.getLsbD (flagBit l .i)
  d := b.getLsbD (flagBit l .d)
  b := b.getLsbD (flagBit l .b)
  v := b.getLsbD (flagBit l .v)
  n := b.getLsbD (flagBit l .n)
  u := b.getLsbD (flagBit l .u)

end Sys2Proof.Machine
end

