-- ==== Sys2Proof/Machine/Memory.lean ====
section
/-! DEFINITION. Memory as a list of cells in one canonical form, the address map (20_memory.md R201), and the two bus
operations `rd` and `wr` (R205, R206). -/

namespace Sys2Proof.Machine

/-- What a region of the address map is (R201). -/
inductive RegionKind where
  | zeroPage | stackPage | outputWindow | drawingWindow | ram
  deriving DecidableEq, Repr

/-- A region of the address map: its kind, its first address and its size in bytes. -/
structure Region where
  kind : RegionKind
  base : Nat
  size : Nat
  deriving DecidableEq, Repr

/-- The five regions, the two device windows among them (R201). -/
def memoryMap : List Region :=
  [⟨.zeroPage, 0x0000, 256⟩, ⟨.stackPage, 0x0100, 256⟩, ⟨.outputWindow, 0x0400, 5⟩, ⟨.drawingWindow, 0x0500, 3⟩,
   ⟨.ram, 0x1000, 61440⟩]

/-- An address inside a region. -/
def Region.holds (r : Region) (a : Nat) : Bool := r.base ≤ a && a < r.base + r.size

/-- A mapped address: one inside one of the five regions (00_scope.md R24). -/
def isMapped (a : Nat) : Bool := memoryMap.any fun r => r.holds a

/-- What an unlisted address reads as: 0x00. The spec fixes it for an unmapped address (R204); for a mapped one no
source gives the initial contents and this is the model's choice (log 3). -/
def unlistedByte : Byte := 0x00

namespace Memory

/-- The byte a memory holds at an address. -/
def get : List Host.Cell → Nat → Byte
  | [], _ => unlistedByte
  | (k, v) :: m, a => if k = a then v else get m a

/-- Put a cell in its place in a rising list. -/
def insert (a : Nat) (v : Byte) : List Host.Cell → List Host.Cell
  | [] => [(a, v)]
  | (k, w) :: m => if a < k then (a, v) :: (k, w) :: m else (k, w) :: insert a v m

/-- Write a byte: the address's old cell goes, and the new one is put in unless it holds what an unlisted address
reads as. -/
def set (m : List Host.Cell) (a : Nat) (v : Byte) : List Host.Cell :=
  let rest := m.filter fun c => c.1 ≠ a
  if v = unlistedByte then rest else insert a v rest

/-- The canonical form: addresses strictly rising, each mapped, and no cell equal to what an unlisted address reads
as. -/
abbrev wf (m : List Host.Cell) : Prop :=
  m.Pairwise (fun c d => c.1 < d.1) ∧ ∀ c ∈ m, c.2 ≠ unlistedByte ∧ isMapped c.1 = true

end Memory

/-- `rd(addr)` (R205): the region's byte, or 0x00 outside every region. -/
def State.rd (s : State) (a : Word) : Byte :=
  if isMapped a.toNat then Memory.get s.mem a.toNat else 0x00

/-- `wr(addr, v)` (R206): outside every region nothing is written. -/
def State.wr (s : State) (a : Word) (v : Byte) : State :=
  if isMapped a.toNat then { s with mem := Memory.set s.mem a.toNat v } else s

end Sys2Proof.Machine
end

