-- ==== Sys2Proof/Machine/Ops.lean ====
section
/-! DEFINITION. The named operations over memory and registers: the stack (10_state.md R106, R107), the break and the
return from it (49_jump_break.md R630-R633), and what the host does between ticks (70_reset_and_hazards.md R801, R812;
20_memory.md R222). -/

namespace Sys2Proof.Machine

/-! ## A register with its flags -/

/-- `X <- v; SetZN(X)` (10_state.md R115). -/
def State.setX (s : State) (v : Byte) : State := { s with x := v, flags := s.flags.setZN v }

/-- `Y <- v; SetZN(Y)`. -/
def State.setY (s : State) (v : Byte) : State := { s with y := v, flags := s.flags.setZN v }

/-- `A <- v; SetZN(A)`. -/
def State.setA (s : State) (v : Byte) : State := { s with a := v, flags := s.flags.setZN v }

/-! ## The stack -/

/-- The stack address `0x0100 + SP` (R106). -/
def stackAddr (sp : Byte) : Word := 0x0100 + zext16 sp

/-- `Push(v)`: write, then decrement (R106). -/
def State.push (s : State) (v : Byte) : State :=
  { s.wr (stackAddr s.sp) v with sp := s.sp - 1 }

/-- The state after `Pull()`: `SP` incremented (R107). -/
def State.pulled (s : State) : State := { s with sp := s.sp + 1 }

/-- The byte `Pull()` returns: the one at the new stack address (R107). -/
def State.pullByte (s : State) : Byte := s.rd (stackAddr (s.sp + 1))

/-- Push a word, high byte first (49_jump_break.md R621, R631). -/
def State.pushWord (s : State) (w : Word) : State := (s.push (hi8 w)).push (lo8 w)

/-- The word that two pulls give, low byte first (R622, R633). -/
def State.pullWord (s : State) : Word := hiLo s.pulled.pullByte s.pullByte

/-! ## The software break and the return from it -/

/-- `BrkVector()` (R630). -/
def State.brkVector (s : State) : Word :=
  if s.cfg.brkVectorSwapped then hiLo (s.rd 0xFFFE) (s.rd 0xFFFF) else hiLo (s.rd 0xFFFF) (s.rd 0xFFFE)

/-- The state with the frame of R631 on the stack, `ret` the return address: `ret`, high byte first, then the status
with its `B` and `U` bits 1 and the old `I`. -/
def State.pushFrame (s : State) (ret : Word) : State :=
  (s.pushWord ret).push (s.flags.pack s.cfg.flagLayout true)

/-- Taking the software break, the one trap-like transfer (60_exceptions.md R710, 49_jump_break.md R632). `pc` is the
address after the opcode, so that the return address is the BRK's address plus 2. -/
def State.takeBreak (s : State) : State :=
  let t := s.pushFrame (s.pc + 1)
  { t with flags := { t.flags with i := true }, pc := t.brkVector }

/-- The return from a break (60_exceptions.md R711, 49_jump_break.md R633): the status, then the program counter, with
nothing added. -/
def State.returnFromBreak (s : State) : State :=
  { s with
    flags := unpackFlags s.cfg.flagLayout s.pullByte
    pc := s.pulled.pullWord
    sp := s.sp + 3 }

/-! ## What the host does -/

/-- `Reset()` (70_reset_and_hazards.md R801): it writes no memory, and the run has begun. -/
def State.hostReset (s : State) : State :=
  { s with
    pc := hiLo (s.rd 0xFFFD) (s.rd 0xFFFC)
    a := 0x00
    x := 0x00
    y := 0x00
    sp := s.cfg.resetSp
    flags := Flags.clear
    scratch := Scratch.zero
    cycles := s.cfg.resetCycles.val
    phase := .running }

/-- The loader's base address (R812). -/
def loadBase : Nat := 0x2000

/-- Write a list of bytes through the bus at consecutive addresses. -/
def State.writeBytes (s : State) (a : Nat) : List Byte → State
  | [] => s
  | b :: bs => (s.wr (BitVec.ofNat 16 a) b).writeBytes (a + 1) bs

/-- Whether a program of `n` bytes ends at or before 0xFFFF (R812, D19). -/
def fitsBelowTop (n : Nat) : Bool := loadBase + n ≤ 65536

/-- The address of a window's byte (20_memory.md R201). -/
def WindowCell.addr : WindowCell → Word
  | .output k => BitVec.ofNat 16 (0x0400 + k.val)
  | .drawing k => BitVec.ofNat 16 (0x0500 + k.val)

/-- The peripherals' writes of one tick, in their order (20_memory.md R222). -/
def State.windowWrites (s : State) (ws : List WindowWrite) : State :=
  ws.foldl (fun t w => t.wr w.cell.addr w.value) s

end Sys2Proof.Machine
end

