-- ==== Sys2Proof/Machine/Operands.lean ====
section
/-! DEFINITION. The addressing-mode resolvers (41_addressing.md R420-R437), the operand access helpers, and the frame
every operation runs in (40_engine.md R402, R403). In all of them `pc` is the address of the first byte after the
opcode, as R420 has it. -/

namespace Sys2Proof.Machine

/-! ## Resolvers -/

/-- The word in two bytes of page zero, the second one wrapping inside the page (R432, R433). -/
def State.zeroPageWord (s : State) (p : Byte) : Word := hiLo (s.rd (zext16 (p + 1))) (s.rd (zext16 p))

/-- The word at a pointer, its high byte taken from the start of the same page when the pointer's low byte is 0xFF:
the page-wrap defect (R431). -/
def State.pointerWord (s : State) (ptr : Word) : Word :=
  if lo8 ptr = 0xFF then hiLo (s.rd (hiLo (hi8 ptr) 0x00)) (s.rd ptr) else hiLo (s.rd (ptr + 1)) (s.rd ptr)

/-- The address a resolver gives `addr_abs` (R421-R433); IMP and REL leave it as it was. -/
def resolvedAddr (o : Operand) (s : State) : Word :=
  match o with
  | .imp => s.scratch.addrAbs
  | .imm _ => s.pc
  | .zp0 zz => zext16 zz
  | .zpx zz => zext16 (zz + s.x)
  | .zpy zz => zext16 (zz + s.y)
  | .rel _ => s.scratch.addrAbs
  | .abs hhll => hhll
  | .abx hhll => hhll + zext16 s.x
  | .aby hhll => hhll + zext16 s.y
  | .ind hhll => s.pointerWord hhll
  | .izx zz => s.zeroPageWord (zz + s.x)
  | .izy zz => s.zeroPageWord zz + zext16 s.y

/-- The base address of an indexed form whose resolver reports page crossings (R428, R429, R433). -/
def indexBase (o : Operand) (s : State) : Option Word :=
  match o with
  | .imp => none
  | .imm _ => none
  | .zp0 _ => none
  | .zpx _ => none
  | .zpy _ => none
  | .rel _ => none
  | .abs _ => none
  | .abx hhll => some hhll
  | .aby hhll => some hhll
  | .ind _ => none
  | .izx _ => none
  | .izy zz => some (s.zeroPageWord zz)

/-- The resolver's report "needs one extra cycle": a page crossing (R430, R437). -/
def crossesPage (o : Operand) (s : State) : Bool :=
  match indexBase o s with
  | some base => hi8 (resolvedAddr o s) != hi8 base
  | none => false

/-- What a resolver leaves in the transient state: `fetched` by IMP (R421), `addr_rel` by REL (R426), `addr_abs` by the
others. A field that a resolver does not write keeps its value (log 10). -/
def resolvedScratch (o : Operand) (s : State) : Scratch :=
  match o with
  | .imp => { s.scratch with fetched := s.a }
  | .rel rr => { s.scratch with addrRel := sext16 rr }
  | o => { s.scratch with addrAbs := resolvedAddr o s }

/-- `Resolve(mode)` (R420): the operand bytes are consumed and the transient state is set; nothing else changes. -/
def resolve (o : Operand) (s : State) : State :=
  { s with pc := s.pc + BitVec.ofNat 16 o.mode.operandBytes, scratch := resolvedScratch o s }

/-! ## Operand access -/

/-- `Operand()` (R435), in the state a resolver left. An immediate operand is the byte the instruction carries
(log 9). -/
def readOperand (o : Operand) (s : State) : Byte :=
  match o with
  | .imp => s.scratch.fetched
  | .imm ii => ii
  | _ => s.rd s.scratch.addrAbs

/-- `WriteBack(v)` (R436), in the state a resolver left. -/
def writeBack (o : Operand) (v : Byte) (s : State) : State :=
  match o with
  | .imp => { s with a := v }
  | _ => s.wr s.scratch.addrAbs v

/-! ## The frame of an operation -/

/-- The operation's report "needs one extra cycle" (30_encoding.md R313). -/
def reportsExtra : Operation → Bool
  | .adc | .and | .cmp | .eor | .lda | .ldx | .ldy | .ora | .sbc => true
  | .cpx | .cpy | .inc | .dec | .inx | .iny | .dex | .dey | .bit | .asl | .lsr | .rol | .ror => false
  | .bcc | .bcs | .beq | .bne | .bmi | .bpl | .bvc | .bvs | .pha | .php | .pla | .plp => false
  | .sta | .stx | .sty | .tax | .tay | .tsx | .txa | .txs | .tya => false
  | .clc | .cld | .cli | .clv | .sec | .sed | .sei | .jmp | .jsr | .rts | .brk | .rti | .nop | .illegal => false

/-- The page penalty: 1 when the resolver AND the operation report an extra cycle (40_engine.md R403). -/
def pagePenalty (op : Operation) (o : Operand) (s : State) : Nat :=
  if crossesPage o s && reportsExtra op then 1 else 0

/-- Add to the remaining-cycles counter. -/
def State.addCycles (s : State) (n : Nat) : State := { s with cycles := s.cycles + n }

/-- The part of `FetchExecute()` after the opcode's lookup (R402): the resolver, the operation, the page penalty. It
never stops (60_exceptions.md R700). -/
def runOperation (op : Operation) (o : Operand) (f : State → State) (s : State) : Host.Outcome State Fault Refusal :=
  .next ((f (resolve o s)).addCycles (pagePenalty op o s))

end Sys2Proof.Machine
end

