-- ==== Sys2Proof/Machine/Arithmetic.lean ====
section
/-! DEFINITION. ADC, SBC, CMP, CPX, CPY, INC, DEC, INX, INY, DEX, DEY (42_arithmetic.md R449-R460). -/

namespace Sys2Proof.Machine

/-- `A <- A + n + C` with its flags and the wide accumulator (R450; R451 with `n` the complemented operand). `D` plays no
part (10_state.md R111). -/
def State.addWithCarry (s : State) (n : Byte) : State :=
  let temp := s.a.toNat + n.toNat + bit01 s.flags.c
  { s with
    a := BitVec.ofNat 8 temp
    flags := s.flags.ofSum s.a n temp
    scratch := { s.scratch with temp := temp } }

/-- ADC (R450). -/
def execAdc (o : Operand) (s : State) : Host.Outcome State Fault Refusal :=
  runOperation .adc o (fun t => t.addWithCarry (readOperand o t)) s

/-- SBC (R451): the operand is complemented. -/
def execSbc (o : Operand) (s : State) : Host.Outcome State Fault Refusal :=
  runOperation .sbc o (fun t => t.addWithCarry (~~~ readOperand o t)) s

/-- CMP (R452): `temp` is the unbounded difference; `A` is not written. -/
def execCmp (o : Operand) (s : State) : Host.Outcome State Fault Refusal :=
  runOperation .cmp o (fun t =>
    { t with
      flags := t.flags.ofCompare t.a (readOperand o t)
      scratch := { t.scratch with temp := (t.a.toNat : Int) - ((readOperand o t).toNat : Int) } }) s

/-- CPX (R453). -/
def execCpx (o : Operand) (s : State) : Host.Outcome State Fault Refusal :=
  runOperation .cpx o (fun t => { t with flags := t.flags.ofCompare t.x (readOperand o t) }) s

/-- CPY (R454). -/
def execCpy (o : Operand) (s : State) : Host.Outcome State Fault Refusal :=
  runOperation .cpy o (fun t => { t with flags := t.flags.ofCompare t.y (readOperand o t) }) s

/-- Write a byte at `addr_abs` and set `Z` and `N` from it, whether or not the write lands (R455, R456). -/
def State.storeResult (s : State) (v : Byte) : State :=
  { s.wr s.scratch.addrAbs v with flags := s.flags.setZN v }

/-- INC (R455). -/
def execInc (o : Operand) (s : State) : Host.Outcome State Fault Refusal :=
  runOperation .inc o (fun t => t.storeResult (readOperand o t + 1)) s

/-- DEC (R456). -/
def execDec (o : Operand) (s : State) : Host.Outcome State Fault Refusal :=
  runOperation .dec o (fun t => t.storeResult (readOperand o t - 1)) s

/-- INX (R457). -/
def execInx (s : State) : Host.Outcome State Fault Refusal := runOperation .inx .imp (fun t => t.setX (t.x + 1)) s

/-- INY (R458). -/
def execIny (s : State) : Host.Outcome State Fault Refusal := runOperation .iny .imp (fun t => t.setY (t.y + 1)) s

/-- DEX (R459). -/
def execDex (s : State) : Host.Outcome State Fault Refusal := runOperation .dex .imp (fun t => t.setX (t.x - 1)) s

/-- DEY (R460). -/
def execDey (s : State) : Host.Outcome State Fault Refusal := runOperation .dey .imp (fun t => t.setY (t.y - 1)) s

end Sys2Proof.Machine
end

