-- ==== Sys2Proof/Machine/Branch.lean ====
section
/-! DEFINITION. The conditional branches (45_branch.md R520-R528). -/

namespace Sys2Proof.Machine

/-- Where a taken branch goes: `PC +16 addr_rel`, from the address of the instruction after the branch (R520). -/
def State.branchTarget (s : State) : Word := s.pc + s.scratch.addrRel

/-- The extra cycles of a taken branch: one, and a second one when the target is on another page than the instruction
after the branch (R520). -/
def State.branchCost (s : State) : Nat := if hi8 s.branchTarget ≠ hi8 s.pc then 2 else 1

/-- `Branch(cond)` (R520). -/
def State.branch (s : State) (cond : Bool) : State :=
  if cond then { s with pc := s.branchTarget, cycles := s.cycles + s.branchCost } else s

/-- BCC (R521): taken when `C = 0`. -/
def execBcc (rr : Byte) (s : State) : Host.Outcome State Fault Refusal :=
  runOperation .bcc (.rel rr) (fun t => t.branch (!t.flags.c)) s

/-- BCS (R522): taken when `C = 1`. -/
def execBcs (rr : Byte) (s : State) : Host.Outcome State Fault Refusal :=
  runOperation .bcs (.rel rr) (fun t => t.branch t.flags.c) s

/-- BEQ (R523): taken when `Z = 1`. -/
def execBeq (rr : Byte) (s : State) : Host.Outcome State Fault Refusal :=
  runOperation .beq (.rel rr) (fun t => t.branch t.flags.z) s

/-- BNE (R524): taken when `Z = 0`. -/
def execBne (rr : Byte) (s : State) : Host.Outcome State Fault Refusal :=
  runOperation .bne (.rel rr) (fun t => t.branch (!t.flags.z)) s

/-- BMI (R525): taken when `N = 1`. -/
def execBmi (rr : Byte) (s : State) : Host.Outcome State Fault Refusal :=
  runOperation .bmi (.rel rr) (fun t => t.branch t.flags.n) s

/-- BPL (R526): taken when `N = 0`. -/
def execBpl (rr : Byte) (s : State) : Host.Outcome State Fault Refusal :=
  runOperation .bpl (.rel rr) (fun t => t.branch (!t.flags.n)) s

/-- BVC (R527): taken when `V = 0`. -/
def execBvc (rr : Byte) (s : State) : Host.Outcome State Fault Refusal :=
  runOperation .bvc (.rel rr) (fun t => t.branch (!t.flags.v)) s

/-- BVS (R528): taken when `V = 1`. -/
def execBvs (rr : Byte) (s : State) : Host.Outcome State Fault Refusal :=
  runOperation .bvs (.rel rr) (fun t => t.branch t.flags.v) s

end Sys2Proof.Machine
end

