-- ==== Sys2Proof/Machine/FlagOps.lean ====
section
/-! DEFINITION. CLC, CLD, CLI, CLV, SEC, SED, SEI (48_flags.md R600-R606). -/

namespace Sys2Proof.Machine

/-- CLC (R600): `C <- 0`. -/
def execClc (s : State) : Host.Outcome State Fault Refusal :=
  runOperation .clc .imp (fun t => { t with flags := { t.flags with c := false } }) s

/-- CLD (R601): `D <- 0`. -/
def execCld (s : State) : Host.Outcome State Fault Refusal :=
  runOperation .cld .imp (fun t => { t with flags := { t.flags with d := false } }) s

/-- CLI (R602): `I <- 0`. -/
def execCli (s : State) : Host.Outcome State Fault Refusal :=
  runOperation .cli .imp (fun t => { t with flags := { t.flags with i := false } }) s

/-- CLV (R603): `V <- 0`. -/
def execClv (s : State) : Host.Outcome State Fault Refusal :=
  runOperation .clv .imp (fun t => { t with flags := { t.flags with v := false } }) s

/-- SEC (R604): `C <- 1`. -/
def execSec (s : State) : Host.Outcome State Fault Refusal :=
  runOperation .sec .imp (fun t => { t with flags := { t.flags with c := true } }) s

/-- SED (R605): `D <- 1`. -/
def execSed (s : State) : Host.Outcome State Fault Refusal :=
  runOperation .sed .imp (fun t => { t with flags := { t.flags with d := true } }) s

/-- SEI (R606): `I <- 1`. -/
def execSei (s : State) : Host.Outcome State Fault Refusal :=
  runOperation .sei .imp (fun t => { t with flags := { t.flags with i := true } }) s

end Sys2Proof.Machine
end

