-- ==== Sys2Proof/Machine/Jump.lean ====
section
/-! DEFINITION. JMP, JSR, RTS, BRK, RTI (49_jump_break.md R620-R634) and the two operations that do nothing, NOP and
ILLEGAL (40_engine.md R410, R411). -/

namespace Sys2Proof.Machine

/-- JMP (R620). -/
def execJmp (o : Operand) (s : State) : Host.Outcome State Fault Refusal :=
  runOperation .jmp o (fun t => { t with pc := t.scratch.addrAbs }) s

/-- JSR (R621): it pushes the address of its own last byte. -/
def execJsr (target : Word) (s : State) : Host.Outcome State Fault Refusal :=
  runOperation .jsr (.abs target) (fun t => { t.pushWord (t.pc - 1) with pc := t.scratch.addrAbs }) s

/-- RTS (R622): it adds 1 to the pulled address. -/
def execRts (s : State) : Host.Outcome State Fault Refusal :=
  runOperation .rts .imp (fun t => { t with pc := t.pullWord + 1, sp := t.sp + 2 }) s

/-- BRK (R632). -/
def execBrk (s : State) : Host.Outcome State Fault Refusal := runOperation .brk .imp State.takeBreak s

/-- RTI (R633). -/
def execRti (s : State) : Host.Outcome State Fault Refusal := runOperation .rti .imp State.returnFromBreak s

/-- NOP (40_engine.md R410). -/
def execNop (s : State) : Host.Outcome State Fault Refusal := runOperation .nop .imp (fun t => t) s

/-- ILLEGAL (40_engine.md R411): a no-op that consumes the operand bytes of its mode. -/
def execIllegal (_op : Byte) (o : Operand) (s : State) : Host.Outcome State Fault Refusal :=
  runOperation .illegal o (fun t => t) s

end Sys2Proof.Machine
end

