-- ==== Sys2Proof/Machine/Logic.lean ====
section
/-! DEFINITION. AND, ORA, EOR, BIT (43_logic.md R480-R483). -/

namespace Sys2Proof.Machine

/-- AND (R480). -/
def execAnd (o : Operand) (s : State) : Host.Outcome State Fault Refusal :=
  runOperation .and o (fun t => t.setA (t.a &&& readOperand o t)) s

/-- ORA (R481). -/
def execOra (o : Operand) (s : State) : Host.Outcome State Fault Refusal :=
  runOperation .ora o (fun t => t.setA (t.a ||| readOperand o t)) s

/-- EOR (R482). -/
def execEor (o : Operand) (s : State) : Host.Outcome State Fault Refusal :=
  runOperation .eor o (fun t => t.setA (t.a ^^^ readOperand o t)) s

/-- The flags of BIT (R483): `Z` from the conjunction, `N` and `V` from bits 7 and 6 of the operand. -/
def Flags.ofBitTest (f : Flags) (a m : Byte) : Flags :=
  { f with z := a &&& m = 0, n := m.getLsbD 7, v := m.getLsbD 6 }

/-- BIT (R483). -/
def execBit (o : Operand) (s : State) : Host.Outcome State Fault Refusal :=
  runOperation .bit o (fun t => { t with flags := t.flags.ofBitTest t.a (readOperand o t) }) s

end Sys2Proof.Machine
end

