-- ==== Sys2Proof/Machine/Shift.lean ====
section
/-! DEFINITION. ASL, LSR, ROL, ROR, on the accumulator or on memory (44_shift.md R500-R503). -/

namespace Sys2Proof.Machine

/-- The common shape of the four: flags from the result and the bit shifted out, the result written back to where the
operand came from. -/
def State.shiftTo (s : State) (o : Operand) (v : Byte) (out : Bool) : State :=
  writeBack o v { s with flags := s.flags.ofShift v out }

/-- A carry as the bit that enters a rotate. -/
def carryBit (c : Bool) : Byte := if c then 1 else 0

/-- ASL (R500). -/
def execAsl (o : Operand) (s : State) : Host.Outcome State Fault Refusal :=
  runOperation .asl o (fun t => t.shiftTo o (readOperand o t <<< 1) ((readOperand o t).getLsbD 7)) s

/-- LSR (R501). -/
def execLsr (o : Operand) (s : State) : Host.Outcome State Fault Refusal :=
  runOperation .lsr o (fun t => t.shiftTo o (readOperand o t >>> 1) ((readOperand o t).getLsbD 0)) s

/-- ROL (R502): the old carry enters bit 0. -/
def execRol (o : Operand) (s : State) : Host.Outcome State Fault Refusal :=
  runOperation .rol o (fun t =>
    t.shiftTo o ((readOperand o t <<< 1) ||| carryBit t.flags.c) ((readOperand o t).getLsbD 7)) s

/-- ROR (R503): the old carry enters bit 7. -/
def execRor (o : Operand) (s : State) : Host.Outcome State Fault Refusal :=
  runOperation .ror o (fun t =>
    t.shiftTo o ((carryBit t.flags.c <<< 7) ||| (readOperand o t >>> 1)) ((readOperand o t).getLsbD 0)) s

end Sys2Proof.Machine
end

