-- ==== Sys2Proof/Machine/Stack.lean ====
section
/-! DEFINITION. PHA, PHP, PLA, PLP (46_stack.md R540-R545). -/

namespace Sys2Proof.Machine

/-- PHA (R541). -/
def execPha (s : State) : Host.Outcome State Fault Refusal := runOperation .pha .imp (fun t => t.push t.a) s

/-- PHP (R542): the pushed byte has the `B` and `U` bits set; the stored flags do not change. -/
def execPhp (s : State) : Host.Outcome State Fault Refusal :=
  runOperation .php .imp (fun t => t.push (t.flags.pack t.cfg.flagLayout true)) s

/-- `A <- Pull(); SetZN(A)` (R543). -/
def State.pullA (s : State) : State := s.pulled.setA s.pullByte

/-- PLA with the reference's defect (R544): `A` and `Z` become 0, and `N` is bit 7 of the pulled byte or 0, as the next
draw has it (log 5). -/
def State.pullADefect (s : State) : State :=
  { s.pulled with
    a := 0x00
    flags := { s.flags with z := false, n := sign s.pullByte && Config.freeBit s.draws }
    draws := s.draws + 1 }

/-- What PLA does after its resolver: R543, or R544 under `PLA_ZERO_DEFECT = true`. -/
def State.pla (s : State) : State := if s.cfg.plaZeroDefect then s.pullADefect else s.pullA

/-- PLA (R543, R544). -/
def execPla (s : State) : Host.Outcome State Fault Refusal := runOperation .pla .imp State.pla s

/-- PLP (R545): all eight flags. -/
def execPlp (s : State) : Host.Outcome State Fault Refusal :=
  runOperation .plp .imp (fun t => { t.pulled with flags := unpackFlags t.cfg.flagLayout t.pullByte }) s

end Sys2Proof.Machine
end

