-- ==== Sys2Proof/Machine/Transfer.lean ====
section
/-! DEFINITION. LDA, LDX, LDY, STA, STX, STY, TAX, TAY, TSX, TXA, TXS, TYA (47_load_store_transfer.md R559-R571). -/

namespace Sys2Proof.Machine

/-- LDA (R560). -/
def execLda (o : Operand) (s : State) : Host.Outcome State Fault Refusal :=
  runOperation .lda o (fun t => t.setA (readOperand o t)) s

/-- LDX (R561). -/
def execLdx (o : Operand) (s : State) : Host.Outcome State Fault Refusal :=
  runOperation .ldx o (fun t => t.setX (readOperand o t)) s

/-- LDY (R562). -/
def execLdy (o : Operand) (s : State) : Host.Outcome State Fault Refusal :=
  runOperation .ldy o (fun t => t.setY (readOperand o t)) s

/-- STA (R563): no flag is written. -/
def execSta (o : Operand) (s : State) : Host.Outcome State Fault Refusal :=
  runOperation .sta o (fun t => t.wr t.scratch.addrAbs t.a) s

/-- STX (R564): no flag is written. -/
def execStx (o : Operand) (s : State) : Host.Outcome State Fault Refusal :=
  runOperation .stx o (fun t => t.wr t.scratch.addrAbs t.x) s

/-- STY (R565): no flag is written. -/
def execSty (o : Operand) (s : State) : Host.Outcome State Fault Refusal :=
  runOperation .sty o (fun t => t.wr t.scratch.addrAbs t.y) s

/-- TAX (R566). -/
def execTax (s : State) : Host.Outcome State Fault Refusal :=
  runOperation .tax .imp (fun t => t.setX t.a) s

/-- TAY (R567). -/
def execTay (s : State) : Host.Outcome State Fault Refusal :=
  runOperation .tay .imp (fun t => t.setY t.a) s

/-- TSX (R568). -/
def execTsx (s : State) : Host.Outcome State Fault Refusal :=
  runOperation .tsx .imp (fun t => t.setX t.sp) s

/-- TXA (R569). -/
def execTxa (s : State) : Host.Outcome State Fault Refusal :=
  runOperation .txa .imp (fun t => t.setA t.x) s

/-- TXS (R570): the one transfer that leaves the flags alone. -/
def execTxs (s : State) : Host.Outcome State Fault Refusal :=
  runOperation .txs .imp (fun t => { t with sp := t.x }) s

/-- TYA (R571). -/
def execTya (s : State) : Host.Outcome State Fault Refusal :=
  runOperation .tya .imp (fun t => t.setA t.y) s

end Sys2Proof.Machine
end

