-- ==== Sys2Proof/Machine/Engine.lean ====
section
/-! DEFINITION. The engine: one bus tick, which is the CPU's tick and then the peripherals' writes (40_engine.md
R400-R405, 20_memory.md R221, R222), and one action of the host (60_exceptions.md R726). -/

namespace Sys2Proof.Machine

/-- The instruction at `pc`: its opcode and the bytes after it, all read before anything is written
(20_memory.md R225; log 14). -/
def State.fetchInstr (s : State) : Instr :=
  decodeBytes s.cfg (s.rd s.pc) (s.rd (s.pc + 1)) (s.rd (s.pc + 2))

/-- The state after the opcode fetch (40_engine.md R402): `pc` one further, the opcode noted, the descriptor's base count
charged. -/
def State.fetched (s : State) : State :=
  { s with
    pc := s.pc + 1
    cycles := (descriptor s.cfg (s.rd s.pc)).base
    scratch := { s.scratch with opcode := s.rd s.pc } }

/-- `FetchExecute()` (R402). -/
def fetchExecute (s : State) : Host.Outcome State Fault Refusal := exec s.fetchInstr s.fetched

/-- The end of every tick: one cycle less (R404), then the peripherals' writes (20_memory.md R221). -/
def State.endTick (s : State) (ws : List WindowWrite) : State :=
  { s with cycles := s.cycles - 1 }.windowWrites ws

/-- One bus tick (40_engine.md R400, 20_memory.md R221). -/
def busTick (ws : List WindowWrite) (s : State) : Host.Outcome State Fault Refusal :=
  if s.cycles = 0 then
    match fetchExecute s with
    | .next t => .next (t.endTick ws)
    | .fault r => .fault r
    | .refused r => .refused r
  else .next (s.endTick ws)

/-- A tick is only taken once the core has been reset (10_state.md R126). -/
def hostTick (ws : List WindowWrite) (s : State) : Host.Outcome State Fault Refusal :=
  match s.phase with
  | .running => busTick ws s
  | .constructed => .refused .tickBeforeReset

/-- The loader's writes, before the run, of a program that ends at or before 0xFFFF (70_reset_and_hazards.md R812;
60_exceptions.md R726). -/
def hostLoad (bytes : List Byte) (s : State) : Host.Outcome State Fault Refusal :=
  match s.phase with
  | .running => .refused .loadDuringRun
  | .constructed =>
    if fitsBelowTop bytes.length then .next (s.writeBytes loadBase bytes) else .refused .loadPastTop

/-- One action of the host: the first of `inputs`, which is taken off the list; a tick with no window write when there
is none. -/
def hostAction (s : State) : Host.Outcome State Fault Refusal :=
  match s.inputs with
  | [] => hostTick [] s
  | .tick ws :: rest => hostTick ws { s with inputs := rest }
  | .reset :: rest => .next { s with inputs := rest }.hostReset
  | .load bytes :: rest => hostLoad bytes { s with inputs := rest }

/-! ## Putting an instruction where the next step fetches it -/

/-- Whether the three bytes from an address are all mapped. -/
def threeMapped (a : Word) : Bool := isMapped a.toNat && isMapped (a + 1).toNat && isMapped (a + 2).toNat

/-- Where the next instruction is put: at `pc`, or at the loader's base address when `pc` is too near an unmapped
address to hold three bytes. -/
def State.fetchPlace (s : State) : Word := if threeMapped s.pc then s.pc else BitVec.ofNat 16 loadBase

/-- Write three bytes at consecutive addresses, modulo 65536. -/
def State.writeThree (s : State) (a : Word) : List Byte → State
  | [b0, b1, b2] => ((s.wr a b0).wr (a + 1) b1).wr (a + 2) b2
  | _ => s

/-- The host actions from the next tick on: what stands before it (a reset, a load) is dropped. -/
def fromNextTick : List HostInput → List HostInput
  | [] => []
  | .tick ws :: rest => .tick ws :: rest
  | .reset :: rest => fromNextTick rest
  | .load _ :: rest => fromNextTick rest

/-- `s` about to fetch the instruction that opcode_table.json numbers `w` (log 8). -/
def State.placeWord (s : State) (nbits w : Nat) : State :=
  { s with
    pc := s.fetchPlace
    cycles := 0
    phase := .running
    inputs := fromNextTick s.inputs }.writeThree s.fetchPlace (tableBytes nbits w)

end Sys2Proof.Machine
end

