-- ==== Sys2Proof/Safety.lean ====
section
/-! DEFINITION. What claims about runs are stated in: the instruction boundary, the invariant every step keeps, a safe
step, and the end of a run as a launch parameter (00_scope.md R24, 40_engine.md R405, R408; 10_state.md R118, R126). -/

namespace Sys2Proof

open Machine

/-- Whether the next action of the host is a tick: it is when nothing is listed (log 6). -/
def Machine.State.tickNext (s : State) : Bool :=
  match s.inputs with
  | [] => true
  | .tick _ :: _ => true
  | .reset :: _ => false
  | .load _ :: _ => false

/-- An instruction boundary: the start of a tick at which `cycles = 0`, so that the tick fetches (00_scope.md R24,
40_engine.md R405). No tick starts before the first reset (10_state.md R126). -/
abbrev AtBoundary (s : State) : Prop := s.phase = .running ∧ s.cycles = 0 ∧ s.tickNext = true

/-- A step answers a next state. -/
def SafeStep (s : State) : Prop := ∃ t, step s = .next t

/-- The greatest base count the configuration gives an illegal opcode (10_state.md R118). -/
def maxIllegalCycles (cfg : Cfg) : Nat := (illegalOpcodes.map fun op => (cfg.illegalCyclesOf op).val).foldr max 0

/-- The greatest value `cycles` takes: `max(7, max ILLEGAL_CYCLES)` from a fetch, `RESET_CYCLES` from a reset (R118). -/
def cycleBound (cfg : Cfg) : Nat := max (max 7 (maxIllegalCycles cfg)) cfg.resetCycles.val

/-- The invariant: memory is in canonical form, and `cycles` is within its bound. -/
structure Inv (s : State) : Prop where
  memory : Memory.wf s.mem
  cycles : s.cycles ≤ cycleBound s.cfg

/-! ## What each instruction may change -/

/-- The addresses an instruction stores to, in the state its meaning starts from (20_memory.md R211, and the
instruction's rule). -/
def storedTo (i : Instr) (s : State) : List Word :=
  match i with
  | .adc _ => []
  | .sbc _ => []
  | .cmp _ => []
  | .cpx _ => []
  | .cpy _ => []
  | .inc o => [resolvedAddr o s]
  | .dec o => [resolvedAddr o s]
  | .inx => []
  | .iny => []
  | .dex => []
  | .dey => []
  | .and _ => []
  | .ora _ => []
  | .eor _ => []
  | .bit _ => []
  | .asl o => if o = .imp then [] else [resolvedAddr o s]
  | .lsr o => if o = .imp then [] else [resolvedAddr o s]
  | .rol o => if o = .imp then [] else [resolvedAddr o s]
  | .ror o => if o = .imp then [] else [resolvedAddr o s]
  | .bcc _ => []
  | .bcs _ => []
  | .beq _ => []
  | .bne _ => []
  | .bmi _ => []
  | .bpl _ => []
  | .bvc _ => []
  | .bvs _ => []
  | .pha => [stackAddr s.sp]
  | .php => [stackAddr s.sp]
  | .pla => []
  | .plp => []
  | .lda _ => []
  | .ldx _ => []
  | .ldy _ => []
  | .sta o => [resolvedAddr o s]
  | .stx o => [resolvedAddr o s]
  | .sty o => [resolvedAddr o s]
  | .tax => []
  | .tay => []
  | .tsx => []
  | .txa => []
  | .txs => []
  | .tya => []
  | .clc => []
  | .cld => []
  | .cli => []
  | .clv => []
  | .sec => []
  | .sed => []
  | .sei => []
  | .jmp _ => []
  | .jsr _ => [stackAddr s.sp, stackAddr (s.sp - 1)]
  | .rts => []
  | .brk => [stackAddr s.sp, stackAddr (s.sp - 1), stackAddr (s.sp - 2)]
  | .rti => []
  | .nop => []
  | .illegal _ _ => []

/-- The flags an instruction writes: the "Flags written" line of its rule, which is 10_state.md R110's "written by"
column. -/
def writtenFlags : Operation → List FlagName
  | .adc => [.c, .z, .v, .n]
  | .sbc => [.c, .z, .v, .n]
  | .cmp => [.c, .z, .n]
  | .cpx => [.c, .z, .n]
  | .cpy => [.c, .z, .n]
  | .inc => [.z, .n]
  | .dec => [.z, .n]
  | .inx => [.z, .n]
  | .iny => [.z, .n]
  | .dex => [.z, .n]
  | .dey => [.z, .n]
  | .and => [.z, .n]
  | .ora => [.z, .n]
  | .eor => [.z, .n]
  | .bit => [.z, .n, .v]
  | .asl => [.c, .z, .n]
  | .lsr => [.c, .z, .n]
  | .rol => [.c, .z, .n]
  | .ror => [.c, .z, .n]
  | .bcc => []
  | .bcs => []
  | .beq => []
  | .bne => []
  | .bmi => []
  | .bpl => []
  | .bvc => []
  | .bvs => []
  | .pha => []
  | .php => []
  | .pla => [.z, .n]
  | .plp => [.c, .z, .i, .d, .b, .v, .n, .u]
  | .lda => [.z, .n]
  | .ldx => [.z, .n]
  | .ldy => [.z, .n]
  | .sta => []
  | .stx => []
  | .sty => []
  | .tax => [.z, .n]
  | .tay => [.z, .n]
  | .tsx => [.z, .n]
  | .txa => [.z, .n]
  | .txs => []
  | .tya => [.z, .n]
  | .clc => [.c]
  | .cld => [.d]
  | .cli => [.i]
  | .clv => [.v]
  | .sec => [.c]
  | .sed => [.d]
  | .sei => [.i]
  | .jmp => []
  | .jsr => []
  | .rts => []
  | .brk => [.i]
  | .rti => [.c, .z, .i, .d, .b, .v, .n, .u]
  | .nop => []
  | .illegal => []

/-- Whether an instruction writes `A` (10_state.md R102): the shifts and rotates only in their accumulator form. -/
def writesA : Instr → Bool
  | .adc _ => true
  | .sbc _ => true
  | .cmp _ => false
  | .cpx _ => false
  | .cpy _ => false
  | .inc _ => false
  | .dec _ => false
  | .inx => false
  | .iny => false
  | .dex => false
  | .dey => false
  | .and _ => true
  | .ora _ => true
  | .eor _ => true
  | .bit _ => false
  | .asl o => o = .imp
  | .lsr o => o = .imp
  | .rol o => o = .imp
  | .ror o => o = .imp
  | .bcc _ => false
  | .bcs _ => false
  | .beq _ => false
  | .bne _ => false
  | .bmi _ => false
  | .bpl _ => false
  | .bvc _ => false
  | .bvs _ => false
  | .pha => false
  | .php => false
  | .pla => true
  | .plp => false
  | .lda _ => true
  | .ldx _ => false
  | .ldy _ => false
  | .sta _ => false
  | .stx _ => false
  | .sty _ => false
  | .tax => false
  | .tay => false
  | .tsx => false
  | .txa => true
  | .txs => false
  | .tya => true
  | .clc => false
  | .cld => false
  | .cli => false
  | .clv => false
  | .sec => false
  | .sed => false
  | .sei => false
  | .jmp _ => false
  | .jsr _ => false
  | .rts => false
  | .brk => false
  | .rti => false
  | .nop => false
  | .illegal _ _ => false

/-- Whether an operation writes `X` (10_state.md R103). -/
def writesX (op : Operation) : Bool := op ∈ [Operation.ldx, Operation.tax, Operation.tsx, Operation.inx, Operation.dex]

/-- Whether an operation writes `Y` (10_state.md R104). -/
def writesY (op : Operation) : Bool := op ∈ [Operation.ldy, Operation.tay, Operation.iny, Operation.dey]

/-- Whether an operation writes `SP` (10_state.md R116). -/
def writesSP (op : Operation) : Bool := op ∈ [Operation.txs, Operation.pha, Operation.pla, Operation.php, Operation.plp, Operation.jsr, Operation.rts, Operation.brk, Operation.rti]

/-- The extra cycles of a taken branch (45_branch.md R520): none for every other instruction. `s` is the state the
meaning starts from, so that the instruction after the branch lies at `s.pc + 1`. -/
def branchExtra (i : Instr) (s : State) : Nat :=
  let extra (taken : Bool) (rr : Byte) : Nat :=
    if taken then (if hi8 (s.pc + 1 + sext16 rr) = hi8 (s.pc + 1) then 1 else 2) else 0
  match i with
  | .adc _ => 0
  | .sbc _ => 0
  | .cmp _ => 0
  | .cpx _ => 0
  | .cpy _ => 0
  | .inc _ => 0
  | .dec _ => 0
  | .inx => 0
  | .iny => 0
  | .dex => 0
  | .dey => 0
  | .and _ => 0
  | .ora _ => 0
  | .eor _ => 0
  | .bit _ => 0
  | .asl _ => 0
  | .lsr _ => 0
  | .rol _ => 0
  | .ror _ => 0
  | .bcc rr => extra (!s.flags.c) rr
  | .bcs rr => extra s.flags.c rr
  | .beq rr => extra s.flags.z rr
  | .bne rr => extra (!s.flags.z) rr
  | .bmi rr => extra s.flags.n rr
  | .bpl rr => extra (!s.flags.n) rr
  | .bvc rr => extra (!s.flags.v) rr
  | .bvs rr => extra s.flags.v rr
  | .pha => 0
  | .php => 0
  | .pla => 0
  | .plp => 0
  | .lda _ => 0
  | .ldx _ => 0
  | .ldy _ => 0
  | .sta _ => 0
  | .stx _ => 0
  | .sty _ => 0
  | .tax => 0
  | .tay => 0
  | .tsx => 0
  | .txa => 0
  | .txs => 0
  | .tya => 0
  | .clc => 0
  | .cld => 0
  | .cli => 0
  | .clv => 0
  | .sec => 0
  | .sed => 0
  | .sei => 0
  | .jmp _ => 0
  | .jsr _ => 0
  | .rts => 0
  | .brk => 0
  | .rti => 0
  | .nop => 0
  | .illegal _ _ => 0

/-! ## Relations between states -/

/-- Two states that agree but for the transient fields other than `cycles` (10_state.md R119). -/
def SameButScratch (s t : State) : Prop := { s with scratch := Scratch.zero } = { t with scratch := Scratch.zero }

/-- A state without what its stored `B` and `U` flags say (10_state.md R111). -/
def eraseBU (s : State) : State := { s with flags := { s.flags with b := false, u := false } }

/-- Two states that agree but for the stored `B` and `U` flags (10_state.md R111). -/
def SameButBU (s t : State) : Prop := eraseBU s = eraseBU t

/-! ## The end of a run -/

/-- The end of a run, a launch parameter (40_engine.md R408). -/
inductive EndOfRun where
  /-- After this many ticks after the reset that begins the run (log 15). -/
  | ticks (count : Nat)
  /-- At the first instruction boundary with this program counter. -/
  | halt (address : Word)
  deriving DecidableEq, Repr

/-- Whether a run ends in `s` (R408). It has begun by then: a run begins with a reset (10_state.md R126). -/
def EndOfRun.reached (e : EndOfRun) (s : State) : Bool :=
  match e with
  | .ticks n => s.phase = .running ∧ n = 0
  | .halt h => AtBoundary s ∧ s.pc = h

/-- The end that is left to wait for once the host's next action in `s` is done: only a tick counts (log 15). -/
def EndOfRun.afterAction (e : EndOfRun) (s : State) : EndOfRun :=
  match e with
  | .ticks n => .ticks (if s.tickNext then n - 1 else n)
  | .halt h => .halt h

/-- The state observed at the end of the run from `s`, if the run ends within `fuel` actions of the host (R408). `s` is
a launch, before the reset that begins the run, or a state of a run that has begun, from which the ticks are counted. -/
def observed : Nat → EndOfRun → State → Option State
  | 0, e, s => if e.reached s then some s else none
  | fuel + 1, e, s =>
    if e.reached s then some s
    else
      match step s with
      | .next t => observed fuel (e.afterAction s) t
      | .fault _ => none
      | .refused _ => none

/-- `t` is what is observed of the run from `s` with this end. A run that never ends observes nothing (R408). -/
def Observes (s : State) (e : EndOfRun) (t : State) : Prop := ∃ fuel, observed fuel e s = some t

/-- How many of the host's first `k` actions are ticks, the ticks after the list's end among them (log 6). -/
def ticksAmong : Nat → List HostInput → Nat
  | 0, _ => 0
  | k + 1, [] => k + 1
  | k + 1, .tick _ :: rest => ticksAmong k rest + 1
  | k + 1, .reset :: rest => ticksAmong k rest
  | k + 1, .load _ :: rest => ticksAmong k rest

end Sys2Proof
end

