-- ==== Sys2Proof/Certificates/Slice0/Obligations.lean ====
section
/-! DEFINITION. The statements for the provers: what the numbered rules of spec/ say the machine does. In the statements
about `exec`, `s` is the state after the opcode fetch (40_engine.md R402), so that `s.pc` is the address of the first
byte after the opcode, as 41_addressing.md R420 has it; the base count of an instruction stands in its `documentedRows`.
A statement over every operand form covers the mnemonic's own forms, and also, by the same pseudocode, the forms it does
not have, which no opcode decodes to (log 12).
-/

open Sys2Proof Sys2Proof.Machine

/-- O1. 30_encoding.md R310, R311, R315 (S1 of 95_test_vectors.md). The opcode assignment is the spec's own
decision D8. -/
def Obligations.DispatchTableIsComplete : Prop :=
  illegalOpcodes.length = 105 ∧
  ((List.range 256).filter fun n => !illegalOpcodes.contains (BitVec.ofNat 8 n)).length = 151 ∧
  ∀ (cfg : Cfg) (op : Byte),
    1 ≤ (descriptor cfg op).base ∧
    (op ∈ illegalOpcodes → descriptor cfg op = ⟨.illegal, cfg.illegalMode op, (cfg.illegalCyclesOf op).val⟩) ∧
    (op ∉ illegalOpcodes →
      (descriptor cfg op).operation ≠ .illegal ∧ 2 ≤ (descriptor cfg op).base ∧ (descriptor cfg op).base ≤ 7 ∧
      ∀ cfg' : Cfg, descriptor cfg' op = descriptor cfg op) ∧
    Cfg.default.illegalMode op = .imp

/-- O2. Decode and encode agree (30_encoding.md R300-R304, R312): every operand at every value. The encoder is
written from the by-mnemonic copy of R312's table, the decoder from its map. -/
def Obligations.DecodeOfEncodeGivesTheInstructionBack : Prop :=
  ∀ (cfg : Cfg) (i : Instr) (rest : List Byte), i.wf = true → i.fits cfg = true →
    decode cfg (encode i ++ rest) = .ok (i, rest)

/-- O3. The other direction of the round trip (30_encoding.md R300, R304, R310): each opcode has one meaning and
no bit of the operand bytes is dropped. -/
def Obligations.EncodeOfDecodeGivesTheBytesBack : Prop :=
  ∀ (cfg : Cfg) (op b1 b2 : Byte),
    (decodeBytes cfg op b1 b2).wf = true ∧ (decodeBytes cfg op b1 b2).fits cfg = true ∧
    encode (decodeBytes cfg op b1 b2) = (op :: [b1, b2]).take (1 + (descriptor cfg op).mode.operandBytes)

/-- O4. 30_encoding.md R304, R310: the length follows from the opcode alone and no opcode is missing. -/
def Obligations.DecodeErrorsOnlyWhenBytesRunOut : Prop :=
  ∀ (cfg : Cfg) (op : Byte) (bytes : List Byte),
    decode cfg [] = .error .noOpcode ∧
    (if bytes.length < (descriptor cfg op).mode.operandBytes then
        decode cfg (op :: bytes) = .error (.truncated ((descriptor cfg op).mode.operandBytes - bytes.length))
      else ∃ i, decode cfg (op :: bytes) = .ok (i, bytes.drop (descriptor cfg op).mode.operandBytes))

/-- O5. A sanity statement over a few words of 30_encoding.md R312 and R315. -/
def Obligations.WrittenOutWordsDecode : Prop :=
  decode Cfg.default [0xA9, 0x80] = .ok (.lda (.imm 0x80), []) ∧
  decode Cfg.default [0x8E, 0x00, 0x04] = .ok (.stx (.abs 0x0400), []) ∧
  decode Cfg.default [0x6C, 0xFF, 0x30] = .ok (.jmp (.ind 0x30FF), []) ∧
  decode Cfg.default [0xD0, 0xFB] = .ok (.bne 0xFB, []) ∧
  decode Cfg.default [0x4A, 0x11] = .ok (.lsr .imp, [0x11]) ∧
  decode Cfg.default [0x00] = .ok (.brk, []) ∧
  decode Cfg.default [0xB1, 0x40] = .ok (.lda (.izy 0x40), []) ∧
  decode Cfg.default [0xB6, 0xFF] = .ok (.ldx (.zpy 0xFF), []) ∧
  decode Cfg.default [0x08] = .ok (.php, []) ∧
  decode Cfg.default [0xF8] = .ok (.sed, []) ∧
  decode Cfg.default [0x02] = .ok (.illegal 0x02 .imp, [])

/-- O6. 40_engine.md R400, R402, R404 and 20_memory.md R221. The list of host actions is the model's own (log
6); an empty list is a tick with no window write. -/
def Obligations.StepRunsTheDecodedInstruction : Prop :=
  ∀ (s : State) (ws : List WindowWrite) (rest : List HostInput) (i : Instr) (tail : List Byte),
    s.phase = .running → s.cycles = 0 →
    (s.inputs = .tick ws :: rest ∨ (s.inputs = [] ∧ ws = [] ∧ rest = [])) →
    decode s.cfg [s.rd s.pc, s.rd (s.pc + 1), s.rd (s.pc + 2)] = .ok (i, tail) →
    step s =
      match exec i { s with
          inputs := rest
          pc := s.pc + 1
          cycles := (descriptor s.cfg (s.rd s.pc)).base
          scratch := { s.scratch with opcode := s.rd s.pc } } with
      | .next t => .next ({ t with cycles := t.cycles - 1 }.windowWrites ws)
      | .fault r => .fault r
      | .refused r => .refused r

/-- O7. 40_engine.md R401, R404 and 20_memory.md R221. -/
def Obligations.IdleTickOnlyCountsDown : Prop :=
  ∀ (s : State) (ws : List WindowWrite) (rest : List HostInput),
    s.phase = .running → s.cycles ≠ 0 →
    (s.inputs = .tick ws :: rest ∨ (s.inputs = [] ∧ ws = [] ∧ rest = [])) →
    step s = .next ({ s with inputs := rest, cycles := s.cycles - 1 }.windowWrites ws)

/-- O8. 40_engine.md R405, 70_reset_and_hazards.md R822: all effects are there after the first tick, the others
are idle. -/
def Obligations.InstructionTakesItsCycleCount : Prop :=
  ∀ s t : State, s.phase = .running → s.cycles = 0 → s.inputs = [] → exec s.fetchInstr s.fetched = .next t →
    1 ≤ t.cycles ∧ core.run t.cycles s = .next { t with cycles := 0 } ∧
    ∀ k, k < t.cycles → core.run (k + 1) s = .next { t with cycles := t.cycles - 1 - k }

/-- O9. 40_engine.md R403, 30_encoding.md R313, 41_addressing.md R430, R437, 45_branch.md R520,
70_reset_and_hazards.md R830; which operations report is decision D10. -/
def Obligations.CyclesChargedAreBasePlusExtras : Prop :=
  (((List.range 256).map fun n => descriptor Cfg.default (BitVec.ofNat 8 n)).filter fun d =>
      decide (d.operation ∈ [Operation.adc, .and, .cmp, .eor, .lda, .ldx, .ldy, .ora, .sbc] ∧
        d.mode ∈ [Mode.abx, .aby, .izy])).length = 23 ∧
  ∀ (i : Instr) (s t : State), exec i s = .next t →
    t.cycles = s.cycles
      + (if i.operation ∈ [Operation.adc, .and, .cmp, .eor, .lda, .ldx, .ldy, .ora, .sbc] then
          match i.operand with
          | .abx base => if hi8 (base + zext16 s.x) = hi8 base then 0 else 1
          | .aby base => if hi8 (base + zext16 s.y) = hi8 base then 0 else 1
          | .izy zz =>
            let base := hiLo (s.rd (zext16 (zz + 1))) (s.rd (zext16 zz))
            if hi8 (base + zext16 s.y) = hi8 base then 0 else 1
          | _ => 0
        else 0)
      + branchExtra i s

/-- O10. 60_exceptions.md R700, 40_engine.md R407: no fault, no terminal state. What is left out is a program
load during a run, which the spec refuses (60_exceptions.md R726). -/
def Obligations.NoFaultAndNoRefusalInARun : Prop :=
  (∀ (i : Instr) (s : State), ∃ t, exec i s = .next t) ∧
  ∀ s : State, s.phase = .running → (∀ bytes rest, s.inputs ≠ .load bytes :: rest) →
    ∃ t, step s = .next t ∧ t.phase = .running

/-- O11. The invariant of Sys2Proof/Safety.lean: the canonical form is the model's (log 3), the bound is
10_state.md R118's. -/
def Obligations.EveryStepKeepsTheInvariant : Prop :=
  ∀ s t : State, Inv s → step s = .next t → Inv t

/-- O12. 10_state.md R118, R125 (log 3, log 4). -/
def Obligations.ResetStateMeetsTheInvariant : Prop :=
  Inv State.reset

/-- O13. 00_scope.md R12: Cfg is configuration, not state; the model holds it in State (log 2), so that it must
be shown to stay. -/
def Obligations.ConfigurationNeverChanges : Prop :=
  ∀ s t : State, step s = .next t →
    t.cfg = s.cfg ∧ t.inputs = s.inputs.tail ∧ (s.phase = .running → t.phase = .running)

/-- O14. 70_reset_and_hazards.md R801, 10_state.md R125, for every RESET_SP and RESET_CYCLES (D4, D5). -/
def Obligations.ResetDoesWhatTheRuleSays : Prop :=
  ∀ (s : State) (rest : List HostInput), s.inputs = .reset :: rest →
    step s = .next { s with
      inputs := rest
      pc := hiLo (s.rd 0xFFFD) (s.rd 0xFFFC)
      a := 0
      x := 0
      y := 0
      sp := s.cfg.resetSp
      flags := ⟨false, false, false, false, false, false, false, false⟩
      scratch := ⟨0, 0, 0, 0, 0⟩
      cycles := s.cfg.resetCycles.val
      phase := .running }

/-- O15. 70_reset_and_hazards.md R803; the draw counter is the model's own field (log 5). -/
def Obligations.ResetForgetsTheStateItIsAppliedTo : Prop :=
  ∀ (s t : State) (rest : List HostInput), s.inputs = .reset :: rest → t.inputs = .reset :: rest →
    s.mem = t.mem → s.cfg = t.cfg → s.draws = t.draws →
    ∃ u, step s = .next u ∧ step t = .next u ∧ u.mem = s.mem

/-- O16. The model's choice of what memory the reset state has (log 3, log 4), and the spec's default values
(log 2). -/
def Obligations.StateResetIsAReset : Prop :=
  (∀ s : State, s.mem = [] → s.cfg = Cfg.default → s.draws = 0 → s.inputs = [] → s.hostReset = State.reset) ∧
  State.reset.pc = 0x0000 ∧ State.reset.sp = 0xFD ∧ State.reset.cycles = 8

/-- O17. 70_reset_and_hazards.md R802, for every RESET_CYCLES. That the tick after them executes is the last
clause. -/
def Obligations.FirstFetchWaitsForTheStartupCycles : Prop :=
  ∀ s : State, s.inputs = [] →
    (∀ k, k ≤ s.cfg.resetCycles.val →
      core.run k s.hostReset = .next { s.hostReset with cycles := s.cfg.resetCycles.val - k }) ∧
    ∀ t, exec { s.hostReset with cycles := 0 }.fetchInstr { s.hostReset with cycles := 0 }.fetched = .next t →
      core.run (s.cfg.resetCycles.val + 1) s.hostReset = .next { t with cycles := t.cycles - 1 }

/-- O18. The three 'refuse' rows of 93_implementation_defined.md (D25, D18, D19; log 7). -/
def Obligations.HostActionsTheSpecRefuses : Prop :=
  (∀ (s : State) (ws : List WindowWrite) (rest : List HostInput), s.phase = .constructed →
    (s.inputs = .tick ws :: rest ∨ s.inputs = []) → step s = .refused .tickBeforeReset) ∧
  (∀ (s : State) (bytes : List Byte) (rest : List HostInput), s.phase = .running →
    s.inputs = .load bytes :: rest → step s = .refused .loadDuringRun) ∧
  (∀ (s : State) (bytes : List Byte) (rest : List HostInput), s.phase = .constructed →
    s.inputs = .load bytes :: rest → 0xE000 < bytes.length → step s = .refused .loadPastTop)

/-- O19. 70_reset_and_hazards.md R812 without the text format, which is out of scope (00_scope.md R6). -/
def Obligations.LoadWritesTheProgramFrom2000 : Prop :=
  ∀ (s : State) (bytes : List Byte) (rest : List HostInput), s.phase = .constructed →
    s.inputs = .load bytes :: rest → bytes.length ≤ 0xE000 →
    ∃ t, step s = .next t ∧ t = { s with inputs := rest, mem := t.mem } ∧
      (∀ (k : Nat) (b : Byte), bytes[k]? = some b → t.rd (BitVec.ofNat 16 (0x2000 + k)) = b) ∧
      ∀ a : Word, (a.toNat < 0x2000 ∨ 0x2000 + bytes.length ≤ a.toNat) → t.rd a = s.rd a

/-- O20. 20_memory.md R221, R222 and 10_state.md R101 (the peripherals reach no register): every address,
whether a write names it once, more than once or not at all. T7 of 95_test_vectors.md. -/
def Obligations.PeripheralsWriteAfterTheCpuAndOnlyInTheirWindows : Prop :=
  ∀ (s t0 : State) (ws : List WindowWrite) (rest : List HostInput), s.phase = .running →
    step { s with inputs := .tick [] :: rest } = .next t0 →
    ∃ t, step { s with inputs := .tick ws :: rest } = .next t ∧
      t = { t0 with mem := t.mem } ∧
      (∀ a : Word, t.rd a =
        match ws.reverse.find? fun w => w.cell.addr = a with
        | some w => w.value
        | none => t0.rd a) ∧
      ∀ a : Word, ¬ (0x400 ≤ a.toNat ∧ a.toNat < 0x405) → ¬ (0x500 ≤ a.toNat ∧ a.toNat < 0x503) → t.rd a = t0.rd a

/-- O21. 20_memory.md R201 (and the sizes of R204). -/
def Obligations.AddressMapIsTheFiveRegions : Prop :=
  memoryMap = [⟨.zeroPage, 0x0000, 256⟩, ⟨.stackPage, 0x0100, 256⟩, ⟨.outputWindow, 0x0400, 5⟩, ⟨.drawingWindow, 0x0500, 3⟩,
   ⟨.ram, 0x1000, 61440⟩] ∧
  memoryMap.Pairwise (fun r q => ∀ a, ¬ (r.holds a = true ∧ q.holds a = true)) ∧
  (memoryMap.map fun r => r.size).sum + 3576 = 65536 ∧
  ∀ a : Nat, isMapped a = true ↔
    a < 0x200 ∨ (0x400 ≤ a ∧ a < 0x405) ∨ (0x500 ≤ a ∧ a < 0x503) ∨ (0x1000 ≤ a ∧ a < 0x10000)

/-- O22. 20_memory.md R202, R205, R206 (and R204's default). What a byte reads before it is written is the
state's memory (log 3). -/
def Obligations.ReadGivesTheLastByteWritten : Prop :=
  (∀ (s : State) (a : Word) (v : Byte), isMapped a.toNat = true →
    (s.wr a v).rd a = v ∧ (∀ b : Word, b ≠ a → (s.wr a v).rd b = s.rd b) ∧
    s.wr a v = { s with mem := (s.wr a v).mem }) ∧
  (∀ (s : State) (a : Word) (v : Byte), isMapped a.toNat = false → s.wr a v = s ∧ s.rd a = 0)

/-- O23. The canonical form is the model's own (log 3): equal memories are equal data. -/
def Obligations.WriteKeepsMemoryCanonical : Prop :=
  (∀ (s : State) (a : Word) (v : Byte), Memory.wf s.mem → Memory.wf (s.wr a v).mem) ∧
  ∀ s t : State, Memory.wf s.mem → Memory.wf t.mem → (∀ a : Word, s.rd a = t.rd a) → s.mem = t.mem

/-- O24. 41_addressing.md R420-R433, with the page-wrap defect of R431 and the zero-page wraps of R424, R425,
R432, R433 (D16, D17). ABY (R429) is the ABX line with Y. High bytes are quotients by 256. -/
def Obligations.ResolversGiveTheirEffectiveAddresses : Prop :=
  (∀ (cfg : Cfg) (op : Byte), op ∉ illegalOpcodes →
    ((descriptor cfg op).mode = .zpy ↔ op = 0xB6 ∨ op = 0x96) ∧
    ((descriptor cfg op).mode = .ind ↔ op = 0x6C) ∧
    ((descriptor cfg op).mode = .rel ↔
      (descriptor cfg op).operation ∈ [Operation.bcc, .bcs, .beq, .bne, .bmi, .bpl, .bvc, .bvs])) ∧
  ∀ (o : Operand) (s : State),
    let resolvedTo (n : Nat) (address : Word) : State :=
      { s with pc := s.pc + BitVec.ofNat 16 n, scratch := { s.scratch with addrAbs := address } }
    let indexed (base index : Nat) : Word := BitVec.ofNat 16 (base + index)
    let crosses (base index : Nat) : Bool := decide ((base + index) % 65536 / 256 ≠ base / 256)
    match o with
    | .imp => resolve o s = { s with scratch := { s.scratch with fetched := s.a } } ∧ crossesPage o s = false
    | .rel rr =>
      resolve o s = { s with pc := s.pc + 1, scratch := { s.scratch with addrRel := rr.signExtend 16 } } ∧
      crossesPage o s = false
    | .imm _ => resolve o s = resolvedTo 1 s.pc ∧ crossesPage o s = false
    | .zp0 zz => resolve o s = resolvedTo 1 (BitVec.ofNat 16 zz.toNat) ∧ crossesPage o s = false
    | .zpx zz =>
      resolve o s = resolvedTo 1 (BitVec.ofNat 16 ((zz.toNat + s.x.toNat) % 256)) ∧ crossesPage o s = false
    | .zpy zz =>
      resolve o s = resolvedTo 1 (BitVec.ofNat 16 ((zz.toNat + s.y.toNat) % 256)) ∧ crossesPage o s = false
    | .abs hhll => resolve o s = resolvedTo 2 hhll ∧ crossesPage o s = false
    | .abx hhll =>
      resolve o s = resolvedTo 2 (indexed hhll.toNat s.x.toNat) ∧ crossesPage o s = crosses hhll.toNat s.x.toNat
    | .aby hhll =>
      resolve o s = resolvedTo 2 (indexed hhll.toNat s.y.toNat) ∧ crossesPage o s = crosses hhll.toNat s.y.toNat
    | .ind hhll =>
      resolve o s = resolvedTo 2 (hiLo (s.rd (if hhll.toNat % 256 = 255 then hhll - 0xFF else hhll + 1)) (s.rd hhll)) ∧
      crossesPage o s = false
    | .izx zz =>
      let low : Nat := (zz.toNat + s.x.toNat) % 256
      resolve o s = resolvedTo 1 (hiLo (s.rd (BitVec.ofNat 16 ((low + 1) % 256))) (s.rd (BitVec.ofNat 16 low))) ∧
      crossesPage o s = false
    | .izy zz =>
      let base : Nat :=
        256 * (s.rd (BitVec.ofNat 16 ((zz.toNat + 1) % 256))).toNat + (s.rd (BitVec.ofNat 16 zz.toNat)).toNat
      resolve o s = resolvedTo 1 (indexed base s.y.toNat) ∧ crossesPage o s = crosses base s.y.toNat

/-- O25. 41_addressing.md R435, R436; that the immediate operand is the byte the instruction carries is the
model's reading (log 9). -/
def Obligations.OperandAndWriteBackUseTheSamePlace : Prop :=
  ∀ (s : State) (v : Byte),
    readOperand .imp (resolve .imp s) = s.a ∧
    writeBack .imp v (resolve .imp s) = { resolve .imp s with a := v } ∧
    (∀ ii : Byte, readOperand (.imm ii) (resolve (.imm ii) s) = ii) ∧
    ∀ o : Operand, o ≠ .imp → (∀ ii, o ≠ .imm ii) →
      readOperand o (resolve o s) = s.rd (resolvedAddr o s) ∧
      writeBack o v (resolve o s) = (resolve o s).wr (resolvedAddr o s) v

/-- O26. 42_arithmetic.md R450 (opcodes, cycles and the Z and N update are the spec's decisions D8, D9, D30).
Nothing else of the state changes. -/
def Obligations.AdcAddsTheOperandAndTheCarry : Prop :=
  documentedRows .adc = [(0x61, .izx, 6), (0x65, .zp0, 3), (0x69, .imm, 2), (0x6D, .abs, 4), (0x71, .izy, 5), (0x75, .zpx, 4), (0x79, .aby, 4), (0x7D, .abx, 4)] ∧
  ∀ (o : Operand) (s : State),
    let n := readOperand o (resolve o s)
    let temp := s.a.toNat + n.toNat + (if s.flags.c then 1 else 0)
    exec (.adc o) s = .next { resolve o s with
      a := BitVec.ofNat 8 temp
      flags := { s.flags with
        c := decide (255 < temp)
        z := decide (temp % 256 = 0)
        v := decide (s.a.getLsbD 7 = n.getLsbD 7 ∧ temp.testBit 7 ≠ s.a.getLsbD 7)
        n := temp.testBit 7 }
      scratch := { (resolve o s).scratch with temp := (temp : Int) }
      cycles := s.cycles + (if crossesPage o s then 1 else 0) }

/-- O27. 42_arithmetic.md R451 (the complement formulation is the spec's decision D30). That this is a
subtraction is AdditionAndSubtractionMeanWhatTheirFlagsSay. -/
def Obligations.SbcAddsTheComplementAndTheCarry : Prop :=
  documentedRows .sbc = [(0xE1, .izx, 6), (0xE5, .zp0, 3), (0xE9, .imm, 2), (0xED, .abs, 4), (0xF1, .izy, 5), (0xF5, .zpx, 4), (0xF9, .aby, 4), (0xFD, .abx, 4)] ∧
  ∀ (o : Operand) (s : State),
    let n := readOperand o (resolve o s) ^^^ 0xFF
    let temp := s.a.toNat + n.toNat + (if s.flags.c then 1 else 0)
    exec (.sbc o) s = .next { resolve o s with
      a := BitVec.ofNat 8 temp
      flags := { s.flags with
        c := decide (255 < temp)
        z := decide (temp % 256 = 0)
        v := decide (s.a.getLsbD 7 = n.getLsbD 7 ∧ temp.testBit 7 ≠ s.a.getLsbD 7)
        n := temp.testBit 7 }
      scratch := { (resolve o s).scratch with temp := (temp : Int) }
      cycles := s.cycles + (if crossesPage o s then 1 else 0) }

/-- O28. The integer laws of 42_arithmetic.md R449: what the bit formulas of R450 and R451 mean. -/
def Obligations.AdditionAndSubtractionMeanWhatTheirFlagsSay : Prop :=
  (∀ (o : Operand) (s t : State), exec (.adc o) s = .next t →
    let m := readOperand o (resolve o s)
    let c : Nat := if s.flags.c then 1 else 0
    s.a.toNat + m.toNat + c = 256 * (if t.flags.c then 1 else 0) + t.a.toNat ∧
    (t.flags.v = true ↔ s.a.toInt + m.toInt + (c : Int) < -128 ∨ 127 < s.a.toInt + m.toInt + (c : Int))) ∧
  (∀ (o : Operand) (s t : State), exec (.sbc o) s = .next t →
    let m := readOperand o (resolve o s)
    let c : Nat := if s.flags.c then 1 else 0
    (t.a.toNat : Int) = ((s.a.toNat : Int) - (m.toNat : Int) - (1 - (c : Int))) % 256 ∧
    (t.flags.c = true ↔ m.toNat + (1 - c) ≤ s.a.toNat) ∧
    (t.flags.v = true ↔
      s.a.toInt - m.toInt - (1 - (c : Int)) < -128 ∨ 127 < s.a.toInt - m.toInt - (1 - (c : Int))))

/-- O29. 00_scope.md R9, 10_state.md R111: D is stored but not acted upon. -/
def Obligations.DecimalModeDoesNotChangeArithmetic : Prop :=
  ∀ (o : Operand) (i : Instr) (s t : State), i = .adc o ∨ i = .sbc o → exec i s = .next t →
    exec i { s with flags := { s.flags with d := !s.flags.d } } =
      .next { t with flags := { t.flags with d := !t.flags.d } }

/-- O30. 42_arithmetic.md R452, R453, R454 (opcodes and cycles: D8). -/
def Obligations.ComparesSetCarryZeroAndNegative : Prop :=
  documentedRows .cmp = [(0xC1, .izx, 6), (0xC5, .zp0, 3), (0xC9, .imm, 2), (0xCD, .abs, 4), (0xD1, .izy, 5), (0xD5, .zpx, 4), (0xD9, .aby, 4), (0xDD, .abx, 4)] ∧
  documentedRows .cpx = [(0xE0, .imm, 2), (0xE4, .zp0, 3), (0xEC, .abs, 4)] ∧
  documentedRows .cpy = [(0xC0, .imm, 2), (0xC4, .zp0, 3), (0xCC, .abs, 4)] ∧
  ∀ (o : Operand) (s : State),
    let m := readOperand o (resolve o s)
    exec (.cmp o) s = .next { resolve o s with
        flags := { s.flags with
          c := decide (m.toNat ≤ s.a.toNat)
          z := decide (s.a = m)
          n := ((256 + s.a.toNat - m.toNat) % 256).testBit 7 }
        scratch := { (resolve o s).scratch with temp := (s.a.toNat : Int) - (m.toNat : Int) }
        cycles := s.cycles + (if crossesPage o s then 1 else 0) } ∧
    exec (.cpx o) s = .next { resolve o s with
        flags := { s.flags with
          c := decide (m.toNat ≤ s.x.toNat)
          z := decide (s.x = m)
          n := ((256 + s.x.toNat - m.toNat) % 256).testBit 7 } } ∧
    exec (.cpy o) s = .next { resolve o s with
        flags := { s.flags with
          c := decide (m.toNat ≤ s.y.toNat)
          z := decide (s.y = m)
          n := ((256 + s.y.toNat - m.toNat) % 256).testBit 7 } }

/-- O31. 42_arithmetic.md R455, R456 (opcodes, cycles, semantics: D8, D23, D30). -/
def Obligations.IncAndDecChangeTheByteByOne : Prop :=
  documentedRows .inc = [(0xE6, .zp0, 5), (0xEE, .abs, 6), (0xF6, .zpx, 6), (0xFE, .abx, 7)] ∧
  documentedRows .dec = [(0xC6, .zp0, 5), (0xCE, .abs, 6), (0xD6, .zpx, 6), (0xDE, .abx, 7)] ∧
  ∀ (o : Operand) (s : State),
    let m := (readOperand o (resolve o s)).toNat
    exec (.inc o) s = .next { (resolve o s).wr (resolvedAddr o s) (BitVec.ofNat 8 (m + 1)) with
        flags := { s.flags with z := decide (m = 255), n := decide (127 ≤ m ∧ m < 255) } } ∧
    exec (.dec o) s = .next { (resolve o s).wr (resolvedAddr o s) (BitVec.ofNat 8 (m + 255)) with
        flags := { s.flags with z := decide (m = 1), n := decide (m = 0 ∨ 129 ≤ m) } }

/-- O32. 42_arithmetic.md R457-R460 (D8, D30). -/
def Obligations.IndexIncrementsAndDecrementsWrap : Prop :=
  documentedRows .inx = [(0xE8, .imp, 2)] ∧
  documentedRows .iny = [(0xC8, .imp, 2)] ∧
  documentedRows .dex = [(0xCA, .imp, 2)] ∧
  documentedRows .dey = [(0x88, .imp, 2)] ∧
  ∀ s : State,
    exec .inx s = .next { resolve .imp s with
        x := BitVec.ofNat 8 (s.x.toNat + 1)
        flags := { s.flags with z := decide (s.x.toNat = 255), n := decide (127 ≤ s.x.toNat ∧ s.x.toNat < 255) } } ∧
    exec .iny s = .next { resolve .imp s with
        y := BitVec.ofNat 8 (s.y.toNat + 1)
        flags := { s.flags with z := decide (s.y.toNat = 255), n := decide (127 ≤ s.y.toNat ∧ s.y.toNat < 255) } } ∧
    exec .dex s = .next { resolve .imp s with
        x := BitVec.ofNat 8 (s.x.toNat + 255)
        flags := { s.flags with z := decide (s.x.toNat = 1), n := decide (s.x.toNat = 0 ∨ 129 ≤ s.x.toNat) } } ∧
    exec .dey s = .next { resolve .imp s with
        y := BitVec.ofNat 8 (s.y.toNat + 255)
        flags := { s.flags with z := decide (s.y.toNat = 1), n := decide (s.y.toNat = 0 ∨ 129 ≤ s.y.toNat) } }

/-- O33. 43_logic.md R480-R483 (D8, D22, D30). -/
def Obligations.LogicOperationsSetTheirFlags : Prop :=
  documentedRows .and = [(0x21, .izx, 6), (0x25, .zp0, 3), (0x29, .imm, 2), (0x2D, .abs, 4), (0x31, .izy, 5), (0x35, .zpx, 4), (0x39, .aby, 4), (0x3D, .abx, 4)] ∧
  documentedRows .ora = [(0x01, .izx, 6), (0x05, .zp0, 3), (0x09, .imm, 2), (0x0D, .abs, 4), (0x11, .izy, 5), (0x15, .zpx, 4), (0x19, .aby, 4), (0x1D, .abx, 4)] ∧
  documentedRows .eor = [(0x41, .izx, 6), (0x45, .zp0, 3), (0x49, .imm, 2), (0x4D, .abs, 4), (0x51, .izy, 5), (0x55, .zpx, 4), (0x59, .aby, 4), (0x5D, .abx, 4)] ∧
  documentedRows .bit = [(0x24, .zp0, 3), (0x2C, .abs, 4)] ∧
  ∀ (o : Operand) (s : State),
    let m := readOperand o (resolve o s)
    exec (.and o) s = .next { resolve o s with
        a := s.a &&& m
        flags := { s.flags with z := decide (s.a &&& m = 0), n := (s.a &&& m).getLsbD 7 }
        cycles := s.cycles + (if crossesPage o s then 1 else 0) } ∧
    exec (.ora o) s = .next { resolve o s with
        a := s.a ||| m
        flags := { s.flags with z := decide (s.a ||| m = 0), n := (s.a ||| m).getLsbD 7 }
        cycles := s.cycles + (if crossesPage o s then 1 else 0) } ∧
    exec (.eor o) s = .next { resolve o s with
        a := s.a ^^^ m
        flags := { s.flags with z := decide (s.a ^^^ m = 0), n := (s.a ^^^ m).getLsbD 7 }
        cycles := s.cycles + (if crossesPage o s then 1 else 0) } ∧
    exec (.bit o) s = .next { resolve o s with
        flags := { s.flags with z := decide (s.a &&& m = 0), n := m.getLsbD 7, v := m.getLsbD 6 } }

/-- O34. 44_shift.md R500-R503 (D8, D30). -/
def Obligations.ShiftsAndRotatesMoveOneBitThroughCarry : Prop :=
  documentedRows .asl = [(0x06, .zp0, 5), (0x0A, .imp, 2), (0x0E, .abs, 6), (0x16, .zpx, 6), (0x1E, .abx, 7)] ∧
  documentedRows .lsr = [(0x46, .zp0, 5), (0x4A, .imp, 2), (0x4E, .abs, 6), (0x56, .zpx, 6), (0x5E, .abx, 7)] ∧
  documentedRows .rol = [(0x26, .zp0, 5), (0x2A, .imp, 2), (0x2E, .abs, 6), (0x36, .zpx, 6), (0x3E, .abx, 7)] ∧
  documentedRows .ror = [(0x66, .zp0, 5), (0x6A, .imp, 2), (0x6E, .abs, 6), (0x76, .zpx, 6), (0x7E, .abx, 7)] ∧
  ∀ (o : Operand) (s : State),
    let m := (readOperand o (resolve o s)).toNat
    let c : Nat := if s.flags.c then 1 else 0
    let shifted (v : Nat) (out : Bool) : State :=
      { writeBack o (BitVec.ofNat 8 v) (resolve o s) with
        flags := { s.flags with c := out, z := decide (v = 0), n := decide (128 ≤ v) } }
    exec (.asl o) s = .next (shifted ((2 * m) % 256) (decide (128 ≤ m))) ∧
    exec (.lsr o) s = .next (shifted (m / 2) (decide (m % 2 = 1))) ∧
    exec (.rol o) s = .next (shifted ((2 * m + c) % 256) (decide (128 ≤ m))) ∧
    exec (.ror o) s = .next (shifted (128 * c + m / 2) (decide (m % 2 = 1)))

/-- O35. 45_branch.md R520-R528 (base count, opcodes and conditions: D8, D9; wrap: D17). The base count 2 is in
each row. Pages are quotients by 256. -/
def Obligations.BranchesMovePcWhenTheirFlagSays : Prop :=
  documentedRows .bcc = [(0x90, .rel, 2)] ∧
  documentedRows .bcs = [(0xB0, .rel, 2)] ∧
  documentedRows .beq = [(0xF0, .rel, 2)] ∧
  documentedRows .bne = [(0xD0, .rel, 2)] ∧
  documentedRows .bmi = [(0x30, .rel, 2)] ∧
  documentedRows .bpl = [(0x10, .rel, 2)] ∧
  documentedRows .bvc = [(0x50, .rel, 2)] ∧
  documentedRows .bvs = [(0x70, .rel, 2)] ∧
  ∀ (rr : Byte) (s : State),
    let target : Word := BitVec.ofInt 16 (((s.pc + 1).toNat : Int) + rr.toInt)
    let notTaken : State := resolve (.rel rr) s
    let taken : State := { resolve (.rel rr) s with
      pc := target
      cycles := s.cycles + (if target.toNat / 256 = (s.pc + 1).toNat / 256 then 1 else 2) }
    notTaken.pc = s.pc + 1 ∧
    exec (.bcc rr) s = .next (if s.flags.c = false then taken else notTaken) ∧
    exec (.bcs rr) s = .next (if s.flags.c = true then taken else notTaken) ∧
    exec (.beq rr) s = .next (if s.flags.z = true then taken else notTaken) ∧
    exec (.bne rr) s = .next (if s.flags.z = false then taken else notTaken) ∧
    exec (.bmi rr) s = .next (if s.flags.n = true then taken else notTaken) ∧
    exec (.bpl rr) s = .next (if s.flags.n = false then taken else notTaken) ∧
    exec (.bvc rr) s = .next (if s.flags.v = false then taken else notTaken) ∧
    exec (.bvs rr) s = .next (if s.flags.v = true then taken else notTaken)

/-- O36. 46_stack.md R541, R542 and 10_state.md R106 (D1, D8, D11, D15). The bits are spelled out under both
layouts. -/
def Obligations.PhaAndPhpPushOneByte : Prop :=
  documentedRows .pha = [(0x48, .imp, 3)] ∧
  documentedRows .php = [(0x08, .imp, 3)] ∧
  ∀ s : State,
    exec .pha s = .next { (resolve .imp s).wr (BitVec.ofNat 16 (0x100 + s.sp.toNat)) s.a with
        sp := BitVec.ofNat 8 (s.sp.toNat + 255) } ∧
    ∃ p : Byte,
      exec .php s = .next { (resolve .imp s).wr (BitVec.ofNat 16 (0x100 + s.sp.toNat)) p with
        sp := BitVec.ofNat 8 (s.sp.toNat + 255) } ∧
      p.getLsbD 0 = s.flags.c ∧ p.getLsbD 1 = s.flags.z ∧ p.getLsbD 2 = s.flags.i ∧ p.getLsbD 3 = s.flags.d ∧
      p.getLsbD 4 = true ∧
      match s.cfg.flagLayout with
      | .nmos => p.getLsbD 5 = true ∧ p.getLsbD 6 = s.flags.v ∧ p.getLsbD 7 = s.flags.n
      | .listing => p.getLsbD 5 = s.flags.v ∧ p.getLsbD 6 = s.flags.n ∧ p.getLsbD 7 = true

/-- O37. 46_stack.md R543 and 10_state.md R107 (D3, D8, D15). -/
def Obligations.PlaPullsTheAccumulator : Prop :=
  documentedRows .pla = [(0x68, .imp, 4)] ∧
  ∀ s : State, s.cfg.plaZeroDefect = false →
    let v := s.rd (stackAddr (s.sp + 1))
    exec .pla s = .next { resolve .imp s with
        sp := s.sp + 1
        a := v
        flags := { s.flags with z := decide (v = 0), n := v.getLsbD 7 } }

/-- O38. 46_stack.md R544. That Z becomes 0 is the spec's own reading ('The reading that Z becomes 0 is the
spec's reading'); N is a free value (log 5), so the statement holds for every draw. -/
def Obligations.PlaWithTheDefectZeroesTheAccumulator : Prop :=
  ∀ s : State, s.cfg.plaZeroDefect = true →
    ∃ n : Bool, (n = (s.rd (stackAddr (s.sp + 1))).getLsbD 7 ∨ n = false) ∧
      exec .pla s = .next { resolve .imp s with
        sp := s.sp + 1
        a := 0
        flags := { s.flags with z := false, n := n }
        draws := s.draws + 1 }

/-- O39. 46_stack.md R545 (D8, D12); the order of the fields is C, Z, I, D, B, V, N, U. -/
def Obligations.PlpLoadsAllEightFlags : Prop :=
  documentedRows .plp = [(0x28, .imp, 4)] ∧
  ∀ s : State,
    let b := s.rd (stackAddr (s.sp + 1))
    exec .plp s = .next { resolve .imp s with
        sp := s.sp + 1
        flags :=
          match s.cfg.flagLayout with
          | .nmos =>
            ⟨b.getLsbD 0, b.getLsbD 1, b.getLsbD 2, b.getLsbD 3, b.getLsbD 4, b.getLsbD 6, b.getLsbD 7, b.getLsbD 5⟩
          | .listing =>
            ⟨b.getLsbD 0, b.getLsbD 1, b.getLsbD 2, b.getLsbD 3, b.getLsbD 4, b.getLsbD 5, b.getLsbD 6, b.getLsbD 7⟩ }

/-- O40. 10_state.md R112, R113, R114 (D1, D11, D12). -/
def Obligations.PackedStatusFollowsTheLayout : Prop :=
  ∀ (f : Flags) (force : Bool) (b : Byte),
    (let p := f.pack .nmos force;
      p.getLsbD 7 = f.n ∧ p.getLsbD 6 = f.v ∧ p.getLsbD 5 = (force || f.u) ∧ p.getLsbD 4 = (force || f.b) ∧
      p.getLsbD 3 = f.d ∧ p.getLsbD 2 = f.i ∧ p.getLsbD 1 = f.z ∧ p.getLsbD 0 = f.c) ∧
    (let p := f.pack .listing force;
      p.getLsbD 7 = (force || f.u) ∧ p.getLsbD 6 = f.n ∧ p.getLsbD 5 = f.v ∧ p.getLsbD 4 = (force || f.b) ∧
      p.getLsbD 3 = f.d ∧ p.getLsbD 2 = f.i ∧ p.getLsbD 1 = f.z ∧ p.getLsbD 0 = f.c) ∧
    ∀ l : FlagLayout, unpackFlags l (f.pack l false) = f ∧ (unpackFlags l b).pack l false = b

/-- O41. 10_state.md R106, R107, R108, 46_stack.md R540 (D15). -/
def Obligations.StackPointerWrapsInItsPage : Prop :=
  ∀ (s : State) (v : Byte),
    s.push v = { s.wr (BitVec.ofNat 16 (0x100 + s.sp.toNat)) v with sp := s.sp - 1 } ∧
    s.pulled = { s with sp := s.sp + 1 } ∧
    s.pullByte = s.rd (BitVec.ofNat 16 (0x100 + (s.sp.toNat + 1) % 256)) ∧
    (s.push v).pullByte = v ∧ (s.push v).pulled.sp = s.sp ∧
    (∀ a : Word, (a.toNat < 0x100 ∨ 0x200 ≤ a.toNat) → (s.push v).rd a = s.rd a) ∧
    (s.sp = 0x00 → (s.push v).sp = 0xFF ∧ (s.push v).rd 0x0100 = v) ∧
    (s.sp = 0xFF → s.pulled.sp = 0x00 ∧ s.pullByte = s.rd 0x0100)

/-- O42. 47_load_store_transfer.md R560-R562, with R559's reading of N (90_conflicts.md C3; D8). -/
def Obligations.LoadsSetTheRegisterAndZeroNegative : Prop :=
  documentedRows .lda = [(0xA1, .izx, 6), (0xA5, .zp0, 3), (0xA9, .imm, 2), (0xAD, .abs, 4), (0xB1, .izy, 5), (0xB5, .zpx, 4), (0xB9, .aby, 4), (0xBD, .abx, 4)] ∧
  documentedRows .ldx = [(0xA2, .imm, 2), (0xA6, .zp0, 3), (0xAE, .abs, 4), (0xB6, .zpy, 4), (0xBE, .aby, 4)] ∧
  documentedRows .ldy = [(0xA0, .imm, 2), (0xA4, .zp0, 3), (0xAC, .abs, 4), (0xB4, .zpx, 4), (0xBC, .abx, 4)] ∧
  ∀ (o : Operand) (s : State),
    let m := readOperand o (resolve o s)
    exec (.lda o) s = .next { resolve o s with
        a := m
        flags := { s.flags with z := decide (m.toNat = 0), n := decide (128 ≤ m.toNat) }
        cycles := s.cycles + (if crossesPage o s then 1 else 0) } ∧
    exec (.ldx o) s = .next { resolve o s with
        x := m
        flags := { s.flags with z := decide (m.toNat = 0), n := decide (128 ≤ m.toNat) }
        cycles := s.cycles + (if crossesPage o s then 1 else 0) } ∧
    exec (.ldy o) s = .next { resolve o s with
        y := m
        flags := { s.flags with z := decide (m.toNat = 0), n := decide (128 ≤ m.toNat) }
        cycles := s.cycles + (if crossesPage o s then 1 else 0) }

/-- O43. 47_load_store_transfer.md R563-R565 (D8). -/
def Obligations.StoresWriteTheRegisterAtTheEffectiveAddress : Prop :=
  documentedRows .sta = [(0x81, .izx, 6), (0x85, .zp0, 3), (0x8D, .abs, 4), (0x91, .izy, 6), (0x95, .zpx, 4), (0x99, .aby, 5), (0x9D, .abx, 5)] ∧
  documentedRows .stx = [(0x86, .zp0, 3), (0x8E, .abs, 4), (0x96, .zpy, 4)] ∧
  documentedRows .sty = [(0x84, .zp0, 3), (0x8C, .abs, 4), (0x94, .zpx, 4)] ∧
  ∀ (o : Operand) (s : State),
    exec (.sta o) s = .next ((resolve o s).wr (resolvedAddr o s) s.a) ∧
    exec (.stx o) s = .next ((resolve o s).wr (resolvedAddr o s) s.x) ∧
    exec (.sty o) s = .next ((resolve o s).wr (resolvedAddr o s) s.y)

/-- O44. 47_load_store_transfer.md R566-R571, with R559's flag law (D8, D30). -/
def Obligations.TransfersCopyARegister : Prop :=
  documentedRows .tax = [(0xAA, .imp, 2)] ∧
  documentedRows .tay = [(0xA8, .imp, 2)] ∧
  documentedRows .tsx = [(0xBA, .imp, 2)] ∧
  documentedRows .txa = [(0x8A, .imp, 2)] ∧
  documentedRows .txs = [(0x9A, .imp, 2)] ∧
  documentedRows .tya = [(0x98, .imp, 2)] ∧
  ∀ s : State,
    exec .tax s = .next { resolve .imp s with
        x := s.a
        flags := { s.flags with z := decide (s.a.toNat = 0), n := decide (128 ≤ s.a.toNat) } } ∧
    exec .tay s = .next { resolve .imp s with
        y := s.a
        flags := { s.flags with z := decide (s.a.toNat = 0), n := decide (128 ≤ s.a.toNat) } } ∧
    exec .tsx s = .next { resolve .imp s with
        x := s.sp
        flags := { s.flags with z := decide (s.sp.toNat = 0), n := decide (128 ≤ s.sp.toNat) } } ∧
    exec .txa s = .next { resolve .imp s with
        a := s.x
        flags := { s.flags with z := decide (s.x.toNat = 0), n := decide (128 ≤ s.x.toNat) } } ∧
    exec .tya s = .next { resolve .imp s with
        a := s.y
        flags := { s.flags with z := decide (s.y.toNat = 0), n := decide (128 ≤ s.y.toNat) } } ∧
    exec .txs s = .next { resolve .imp s with sp := s.x }

/-- O45. 48_flags.md R600-R606 (D8). -/
def Obligations.FlagInstructionsWriteOneFlag : Prop :=
  documentedRows .clc = [(0x18, .imp, 2)] ∧
  documentedRows .cld = [(0xD8, .imp, 2)] ∧
  documentedRows .cli = [(0x58, .imp, 2)] ∧
  documentedRows .clv = [(0xB8, .imp, 2)] ∧
  documentedRows .sec = [(0x38, .imp, 2)] ∧
  documentedRows .sed = [(0xF8, .imp, 2)] ∧
  documentedRows .sei = [(0x78, .imp, 2)] ∧
  ∀ s : State,
    exec .clc s = .next { resolve .imp s with flags := { s.flags with c := false } } ∧
    exec .cld s = .next { resolve .imp s with flags := { s.flags with d := false } } ∧
    exec .cli s = .next { resolve .imp s with flags := { s.flags with i := false } } ∧
    exec .clv s = .next { resolve .imp s with flags := { s.flags with v := false } } ∧
    exec .sec s = .next { resolve .imp s with flags := { s.flags with c := true } } ∧
    exec .sed s = .next { resolve .imp s with flags := { s.flags with d := true } } ∧
    exec .sei s = .next { resolve .imp s with flags := { s.flags with i := true } }

/-- O46. 49_jump_break.md R620 with 41_addressing.md R431 (D8), for the two forms JMP has. The last clause, over
every form, says of the forms JMP does not have what the model chose (log 12), not what a rule says. -/
def Obligations.JumpGoesToTheResolvedAddress : Prop :=
  documentedRows .jmp = [(0x4C, .abs, 3), (0x6C, .ind, 5)] ∧
  ∀ (s : State) (p : Word) (o : Operand),
    exec (.jmp (.abs p)) s = .next { resolve (.abs p) s with pc := p } ∧
    exec (.jmp (.ind p)) s = .next { resolve (.ind p) s with
      pc := hiLo (s.rd (if lo8 p = 0xFF then p - 0xFF else p + 1)) (s.rd p) } ∧
    exec (.jmp o) s = .next { resolve o s with pc := resolvedAddr o s }

/-- O47. 49_jump_break.md R621 (D8, D14). -/
def Obligations.JsrPushesTheAddressOfItsLastByte : Prop :=
  documentedRows .jsr = [(0x20, .abs, 6)] ∧
  ∀ (s : State) (target : Word), ∃ t, exec (.jsr target) s = .next t ∧
    t = { resolve (.abs target) s with pc := target, sp := s.sp - 2, mem := t.mem } ∧
    t.rd (stackAddr s.sp) = hi8 (s.pc + 1) ∧ t.rd (stackAddr (s.sp - 1)) = lo8 (s.pc + 1) ∧
    ∀ a : Word, a ≠ stackAddr s.sp → a ≠ stackAddr (s.sp - 1) → t.rd a = s.rd a

/-- O48. 49_jump_break.md R622 (D8, D14). -/
def Obligations.RtsPullsTheAddressAndAddsOne : Prop :=
  documentedRows .rts = [(0x60, .imp, 6)] ∧
  ∀ s : State, exec .rts s = .next { resolve .imp s with
      pc := hiLo (s.rd (stackAddr (s.sp + 2))) (s.rd (stackAddr (s.sp + 1))) + 1
      sp := s.sp + 2 }

/-- O49. 49_jump_break.md R629: the JSR/RTS pair. PC after the opcode fetch is the JSR's address plus 1. -/
def Obligations.RtsUndoesJsr : Prop :=
  ∀ (s t v : State) (target : Word), exec (.jsr target) s = .next t → v.mem = t.mem → v.sp = t.sp →
    ∃ u, exec .rts v = .next u ∧ u.pc = s.pc + 2 ∧ u.sp = s.sp ∧ u.mem = t.mem

/-- O50. 49_jump_break.md R630, R631, R632, 60_exceptions.md R710 (D2, D8, D11, D13, D32). -/
def Obligations.BrkTakesTheBreak : Prop :=
  documentedRows .brk = [(0x00, .imp, 7)] ∧
  ∀ s : State, ∃ t, exec .brk s = .next t ∧
    t = { resolve .imp s with
      pc := if s.cfg.brkVectorSwapped then hiLo (s.rd 0xFFFE) (s.rd 0xFFFF) else hiLo (s.rd 0xFFFF) (s.rd 0xFFFE)
      sp := s.sp - 3
      flags := { s.flags with i := true }
      mem := t.mem } ∧
    t.rd (stackAddr s.sp) = hi8 (s.pc + 1) ∧ t.rd (stackAddr (s.sp - 1)) = lo8 (s.pc + 1) ∧
    t.rd (stackAddr (s.sp - 2)) = s.flags.pack s.cfg.flagLayout true ∧
    ∀ a : Word, a ≠ stackAddr s.sp → a ≠ stackAddr (s.sp - 1) → a ≠ stackAddr (s.sp - 2) → t.rd a = s.rd a

/-- O51. 49_jump_break.md R633, 60_exceptions.md R711 (D8, D12). -/
def Obligations.RtiRestoresFlagsAndPc : Prop :=
  documentedRows .rti = [(0x40, .imp, 6)] ∧
  ∀ s : State,
    let b := s.rd (stackAddr (s.sp + 1))
    exec .rti s = .next { resolve .imp s with
        pc := hiLo (s.rd (stackAddr (s.sp + 3))) (s.rd (stackAddr (s.sp + 2)))
        sp := s.sp + 3
        flags :=
          match s.cfg.flagLayout with
          | .nmos =>
            ⟨b.getLsbD 0, b.getLsbD 1, b.getLsbD 2, b.getLsbD 3, b.getLsbD 4, b.getLsbD 6, b.getLsbD 7, b.getLsbD 5⟩
          | .listing =>
            ⟨b.getLsbD 0, b.getLsbD 1, b.getLsbD 2, b.getLsbD 3, b.getLsbD 4, b.getLsbD 5, b.getLsbD 6, b.getLsbD 7⟩ }

/-- O52. 49_jump_break.md R634, on steps of the machine. The three bytes the frame took on the stack are not
restored. -/
def Obligations.BreakAndReturnRoundTrip : Prop :=
  ∀ s : State, s.phase = .running → s.cycles = 0 → s.inputs = [] → s.rd s.pc = 0x00 →
    ∃ t, core.run 7 s = .next t ∧ t.cycles = 0 ∧ t.pc = s.brkVector ∧
      (t.rd t.pc = 0x40 → ∃ u, core.run 6 t = .next u ∧ u.cycles = 0 ∧ u.pc = s.pc + 2 ∧
        u.a = s.a ∧ u.x = s.x ∧ u.y = s.y ∧ u.sp = s.sp ∧
        u.flags = { s.flags with b := true, u := true })

/-- O53. 40_engine.md R410, R411 (D6, D7, D8): an ILLEGAL consumes the operand bytes of ILLEGAL_MODE and its
base count is ILLEGAL_CYCLES. -/
def Obligations.NopAndIllegalOnlyPassTheirBytes : Prop :=
  documentedRows .nop = [(0xEA, .imp, 2)] ∧
  (∀ (cfg : Cfg) (op : Byte), op ∈ illegalOpcodes →
    descriptor cfg op = ⟨.illegal, cfg.illegalMode op, (cfg.illegalCyclesOf op).val⟩) ∧
  ∀ (s : State) (op : Byte) (o : Operand),
    exec .nop s = .next (resolve .imp s) ∧
    exec (.illegal op o) s = .next (resolve o s) ∧
    resolve o s = { s with pc := s.pc + BitVec.ofNat 16 o.mode.operandBytes, scratch := (resolve o s).scratch }

/-- O54. The memory frame of all 57 constructors; storedTo (Sys2Proof/Safety.lean) gives the addresses. -/
def Obligations.OnlyTheStoredAddressesChange : Prop :=
  ∀ (i : Instr) (s t : State), exec i s = .next t → ∀ a : Word, a ∉ storedTo i s → t.rd a = s.rd a

/-- O55. The register frame of all 57 constructors, from 10_state.md R102, R103, R104, R116. -/
def Obligations.OnlyTheNamedRegistersChange : Prop :=
  ∀ (i : Instr) (s t : State), exec i s = .next t →
    (writesA i = false → t.a = s.a) ∧ (writesX i.operation = false → t.x = s.x) ∧
    (writesY i.operation = false → t.y = s.y) ∧ (writesSP i.operation = false → t.sp = s.sp) ∧
    t.cfg = s.cfg ∧ t.phase = s.phase ∧ t.inputs = s.inputs ∧ (i ≠ .pla → t.draws = s.draws)

/-- O56. The flag frame of all 57 constructors: the 'written by' column of 10_state.md R110. -/
def Obligations.OnlyTheNamedFlagsChange : Prop :=
  ∀ (i : Instr) (s t : State), exec i s = .next t →
    ∀ flag : FlagName, flag ∉ writtenFlags i.operation → t.flags.get flag = s.flags.get flag

/-- O57. 10_state.md R111: a program can never observe the stored B or U. For whole steps and every host action.
-/
def Obligations.StoredBAndUAreNeverObserved : Prop :=
  ∀ s t s' : State, SameButBU s t → step s = .next s' → ∃ t', step t = .next t' ∧ SameButBU s' t' 

/-- O58. 10_state.md R119, for whole steps and every host action. -/
def Obligations.TransientFieldsAreNeverObserved : Prop :=
  ∀ s t s' : State, SameButScratch s t → step s = .next s' → ∃ t', step t = .next t' ∧ SameButScratch s' t' 

/-- O59. 40_engine.md R408, the halt address; the boundary is 00_scope.md R24's, which no state before the first
reset is at (10_state.md R126). That a run never reaches H is the case in which no fuel observes anything. -/
def Obligations.RunHaltsAtTheFirstBoundaryAtH : Prop :=
  ∀ (fuel : Nat) (h : Word) (s t : State),
    observed fuel (.halt h) s = some t ↔
      ∃ k, k ≤ fuel ∧ core.run k s = .next t ∧
        (t.phase = .running ∧ t.cycles = 0 ∧ t.tickNext = true ∧ t.pc = h) ∧
        ∀ j, j < k → ∀ u, core.run j s = .next u →
          ¬ (u.phase = .running ∧ u.cycles = 0 ∧ u.tickNext = true ∧ u.pc = h)

/-- O60. 40_engine.md R408, the tick count. That a reset during the run leaves the count running is the model's
reading (log 15). -/
def Obligations.RunOfTTicksEndsTTicksAfterItsReset : Prop :=
  (∀ (s : State) (loads : List (List Byte)) (ticks : List (List WindowWrite)) (n : Nat), s.phase = .constructed →
    s.inputs = loads.map HostInput.load ++ HostInput.reset :: ticks.map HostInput.tick →
    (∀ bytes, bytes ∈ loads → bytes.length ≤ 0xE000) →
    ∃ t, core.run (loads.length + 1 + n) s = .next t ∧ observed (loads.length + 1 + n) (.ticks n) s = some t ∧
      t.phase = .running) ∧
  ∀ (fuel n : Nat) (s t : State),
    observed fuel (.ticks n) s = some t ↔
      ∃ k, k ≤ fuel ∧ core.run k s = .next t ∧ t.phase = .running ∧ ticksAmong k s.inputs = n ∧
        ∀ j, j < k → ∀ u, core.run j s = .next u → u.phase = .running → ticksAmong j s.inputs ≠ n
end

