-- ==== Sys2Proof/Laws/Bits.lean ====
section
/-! SUPPORT. The words made of two bytes, and the bytes of a word. -/

namespace Sys2Proof.Machine

@[simp] theorem lo8_hiLo (hi lo : Byte) : lo8 (hiLo hi lo) = lo := by
  apply BitVec.eq_of_toNat_eq
  have := lo.isLt
  simp only [lo8, hiLo, BitVec.extractLsb'_toNat, BitVec.toNat_append, Nat.shiftRight_zero]
  rw [Nat.shiftLeft_eq, Nat.mul_comm, ← Nat.two_pow_add_eq_or_of_lt this]
  omega

@[simp] theorem hi8_hiLo (hi lo : Byte) : hi8 (hiLo hi lo) = hi := by
  apply BitVec.eq_of_toNat_eq
  have := lo.isLt
  have := hi.isLt
  simp only [hi8, hiLo, BitVec.extractLsb'_toNat, BitVec.toNat_append, Nat.shiftRight_eq_div_pow]
  rw [Nat.shiftLeft_eq, Nat.mul_comm, ← Nat.two_pow_add_eq_or_of_lt ‹lo.toNat < 2 ^ 8›]
  omega

@[simp] theorem hiLo_hi8_lo8 (w : Word) : hiLo (hi8 w) (lo8 w) = w := by
  apply BitVec.eq_of_toNat_eq
  have := w.isLt
  have hl : w.toNat % 2 ^ 8 < 2 ^ 8 := Nat.mod_lt _ (by decide)
  simp only [hi8, lo8, hiLo, BitVec.toNat_append, BitVec.extractLsb'_toNat, Nat.shiftRight_eq_div_pow, pow_zero,
    Nat.div_one]
  rw [Nat.shiftLeft_eq, Nat.mul_comm, ← Nat.two_pow_add_eq_or_of_lt hl]
  omega

theorem toNat_hiLo (hi lo : Byte) : (hiLo hi lo).toNat = hi.toNat * 256 + lo.toNat := by
  have := lo.isLt
  simp only [hiLo, BitVec.toNat_append]
  rw [Nat.shiftLeft_eq, Nat.mul_comm, ← Nat.two_pow_add_eq_or_of_lt this]

theorem toNat_zext16 (b : Byte) : (zext16 b).toNat = b.toNat := by
  have := b.isLt
  simp only [zext16, BitVec.toNat_setWidth]
  omega

theorem toNat_hi8 (w : Word) : (hi8 w).toNat = w.toNat / 256 := by
  have := w.isLt
  simp only [hi8, BitVec.extractLsb'_toNat, Nat.shiftRight_eq_div_pow]
  omega

theorem toNat_lo8 (w : Word) : (lo8 w).toNat = w.toNat % 256 := by
  simp [lo8, BitVec.extractLsb'_toNat]

/-- Two addresses are on different pages when their quotients by 256 differ. -/
theorem hi8_bne (a b : Word) : (hi8 a != hi8 b) = decide (a.toNat / 256 ≠ b.toNat / 256) := by
  rw [bne, Bool.eq_iff_iff]
  simp [← toNat_hi8, BitVec.toNat_inj]

/-- Indexing a word by a byte wraps modulo 65536. -/
theorem add_zext16 (w : Word) (b : Byte) : w + zext16 b = BitVec.ofNat 16 (w.toNat + b.toNat) := by
  apply BitVec.eq_of_toNat_eq
  rw [BitVec.toNat_add, toNat_zext16]
  simp

/-- Indexing inside page zero wraps modulo 256. -/
theorem zext16_add (a b : Byte) : zext16 (a + b) = BitVec.ofNat 16 ((a.toNat + b.toNat) % 256) := by
  apply BitVec.eq_of_toNat_eq
  rw [toNat_zext16]
  simp
  omega

/-- The sign of a byte as an unsigned comparison. -/
theorem sign_eq_decide (b : Byte) : sign b = decide (128 ≤ b.toNat) := by revert b; decide +kernel

end Sys2Proof.Machine
end

