-- ==== Sys2Proof/Laws/Decode.lean ====
section
/-! SUPPORT. The dispatch table checked row by row once, and what follows of every descriptor: its opcode, its mode, and
that decoding three bytes at an opcode always succeeds. -/

namespace Sys2Proof

/-- What one row of the opcode map must be: a documented operation with one of its modes, 2 to 7 base cycles, and this
opcode in the by-mnemonic table; or an empty cell at one of the 105 illegal opcodes. -/
def rowOk (n : Nat) : Bool :=
  match opcodeMap.getD n none with
  | some d =>
    d.operation != .illegal && d.operation.modes.contains d.mode && decide (2 ≤ d.base) && decide (d.base ≤ 7) &&
      d.operation.opcodes.lookup d.mode == some (BitVec.ofNat 8 n) && !illegalOpcodes.contains (BitVec.ofNat 8 n)
  | none => illegalOpcodes.contains (BitVec.ofNat 8 n)

set_option maxRecDepth 20000 in
theorem all_rows_ok : (List.range 256).all rowOk = true := by decide +kernel

theorem row_ok (op : Byte) : rowOk op.toNat = true :=
  List.all_eq_true.1 all_rows_ok _ (List.mem_range.2 op.isLt)

/-- The two kinds of descriptor: a documented row, whatever the configuration, or the ILLEGAL no-op of an illegal
opcode. -/
theorem descriptor_cases (cfg : Cfg) (op : Byte) :
    (∃ d, opcodeMap.getD op.toNat none = some d ∧ descriptor cfg op = d ∧ d.operation ≠ .illegal ∧
      d.mode ∈ d.operation.modes ∧ 2 ≤ d.base ∧ d.base ≤ 7 ∧ d.operation.opcodes.lookup d.mode = some op ∧
      op ∉ illegalOpcodes) ∨
    (opcodeMap.getD op.toNat none = none ∧ op ∈ illegalOpcodes ∧
      descriptor cfg op = ⟨.illegal, cfg.illegalMode op, (cfg.illegalCyclesOf op).val⟩) := by
  have h := row_ok op
  unfold rowOk at h
  unfold descriptor
  cases hd : opcodeMap.getD op.toNat none with
  | none => simp_all
  | some d => simp_all

/-- An operation's own mode fixes how many of the two bytes its instruction uses: none. -/
theorem assemble_no_bytes {operation : Operation} {mode : Mode} (h : mode ∈ operation.modes)
    (hb : mode.operandBytes = 0) (op b1 b2 : Byte) : assemble operation mode op b1 b2 = assemble operation mode op 0 0 := by
  cases operation <;> cases mode <;> simp_all [Operation.modes, Mode.operandBytes, assemble, operandOf]

/-- An operation's own mode fixes how many of the two bytes its instruction uses: one. -/
theorem assemble_one_byte {operation : Operation} {mode : Mode} (h : mode ∈ operation.modes)
    (hb : mode.operandBytes = 1) (op b1 b2 : Byte) : assemble operation mode op b1 b2 = assemble operation mode op b1 0 := by
  cases operation <;> cases mode <;> simp_all [Operation.modes, Mode.operandBytes, assemble, operandOf]

/-- Every descriptor's mode is one its operation has. -/
theorem descriptor_mode_mem (cfg : Cfg) (op : Byte) :
    (descriptor cfg op).mode ∈ (descriptor cfg op).operation.modes := by
  rcases descriptor_cases cfg op with ⟨d, -, hd, -, hm, -⟩ | ⟨-, -, hd⟩
  · rw [hd]; exact hm
  · rw [hd]
    show cfg.illegalMode op ∈ Operation.modes .illegal
    cases cfg.illegalMode op <;> decide

theorem operandBytes_le_two (mode : Mode) : mode.operandBytes ≤ 2 := by cases mode <;> decide

/-- Three bytes at an opcode always decode, to the instruction `decodeBytes` gives. -/
theorem decode_three (cfg : Cfg) (op b1 b2 : Byte) :
    decode cfg [op, b1, b2] =
      .ok (decodeBytes cfg op b1 b2, [b1, b2].drop (descriptor cfg op).mode.operandBytes) := by
  have hm := descriptor_mode_mem cfg op
  have hle := operandBytes_le_two (descriptor cfg op).mode
  rcases hb : (descriptor cfg op).mode.operandBytes with _ | _ | _ | n
  · simp only [decode, decodeBytes, hb, assemble_no_bytes hm hb op b1 b2, List.drop_zero]
  · simp only [decode, decodeBytes, hb, assemble_one_byte hm hb op b1 b2, List.drop_succ_cons, List.drop_zero]
  · simp only [decode, hb, List.drop_succ_cons, List.drop_zero]
  · omega

end Sys2Proof
end

