-- ==== Sys2Proof/Laws/State.lean ====
section
/-! SUPPORT. What each shared operation leaves in each field of State: one lemma per operation and field, so that no
proof unfolds a record update. -/

namespace Sys2Proof.Machine

/-! ## The bus write -/

@[simp] theorem State.wr_pc (s : State) (a : Word) (v : Byte) : (s.wr a v).pc = s.pc := by
  unfold State.wr; split <;> rfl
@[simp] theorem State.wr_sp (s : State) (a : Word) (v : Byte) : (s.wr a v).sp = s.sp := by
  unfold State.wr; split <;> rfl
@[simp] theorem State.wr_a (s : State) (a : Word) (v : Byte) : (s.wr a v).a = s.a := by
  unfold State.wr; split <;> rfl
@[simp] theorem State.wr_x (s : State) (a : Word) (v : Byte) : (s.wr a v).x = s.x := by
  unfold State.wr; split <;> rfl
@[simp] theorem State.wr_y (s : State) (a : Word) (v : Byte) : (s.wr a v).y = s.y := by
  unfold State.wr; split <;> rfl
@[simp] theorem State.wr_flags (s : State) (a : Word) (v : Byte) : (s.wr a v).flags = s.flags := by
  unfold State.wr; split <;> rfl
@[simp] theorem State.wr_cycles (s : State) (a : Word) (v : Byte) : (s.wr a v).cycles = s.cycles := by
  unfold State.wr; split <;> rfl
@[simp] theorem State.wr_scratch (s : State) (a : Word) (v : Byte) : (s.wr a v).scratch = s.scratch := by
  unfold State.wr; split <;> rfl
@[simp] theorem State.wr_cfg (s : State) (a : Word) (v : Byte) : (s.wr a v).cfg = s.cfg := by
  unfold State.wr; split <;> rfl
@[simp] theorem State.wr_phase (s : State) (a : Word) (v : Byte) : (s.wr a v).phase = s.phase := by
  unfold State.wr; split <;> rfl
@[simp] theorem State.wr_draws (s : State) (a : Word) (v : Byte) : (s.wr a v).draws = s.draws := by
  unfold State.wr; split <;> rfl
@[simp] theorem State.wr_inputs (s : State) (a : Word) (v : Byte) : (s.wr a v).inputs = s.inputs := by
  unfold State.wr; split <;> rfl

/-! ## The stack -/

@[simp] theorem State.push_pc (s : State) (v : Byte) : (s.push v).pc = s.pc := by simp [State.push]
@[simp] theorem State.push_sp (s : State) (v : Byte) : (s.push v).sp = s.sp - 1 := rfl
@[simp] theorem State.push_a (s : State) (v : Byte) : (s.push v).a = s.a := by simp [State.push]
@[simp] theorem State.push_x (s : State) (v : Byte) : (s.push v).x = s.x := by simp [State.push]
@[simp] theorem State.push_y (s : State) (v : Byte) : (s.push v).y = s.y := by simp [State.push]
@[simp] theorem State.push_flags (s : State) (v : Byte) : (s.push v).flags = s.flags := by simp [State.push]
@[simp] theorem State.push_cycles (s : State) (v : Byte) : (s.push v).cycles = s.cycles := by simp [State.push]
@[simp] theorem State.push_scratch (s : State) (v : Byte) : (s.push v).scratch = s.scratch := by simp [State.push]
@[simp] theorem State.push_cfg (s : State) (v : Byte) : (s.push v).cfg = s.cfg := by simp [State.push]
@[simp] theorem State.push_phase (s : State) (v : Byte) : (s.push v).phase = s.phase := by simp [State.push]
@[simp] theorem State.push_draws (s : State) (v : Byte) : (s.push v).draws = s.draws := by simp [State.push]
@[simp] theorem State.push_inputs (s : State) (v : Byte) : (s.push v).inputs = s.inputs := by simp [State.push]
@[simp] theorem State.pulled_pc (s : State) : (s.pulled).pc = s.pc := rfl
@[simp] theorem State.pulled_sp (s : State) : (s.pulled).sp = s.sp + 1 := rfl
@[simp] theorem State.pulled_a (s : State) : (s.pulled).a = s.a := rfl
@[simp] theorem State.pulled_x (s : State) : (s.pulled).x = s.x := rfl
@[simp] theorem State.pulled_y (s : State) : (s.pulled).y = s.y := rfl
@[simp] theorem State.pulled_flags (s : State) : (s.pulled).flags = s.flags := rfl
@[simp] theorem State.pulled_cycles (s : State) : (s.pulled).cycles = s.cycles := rfl
@[simp] theorem State.pulled_scratch (s : State) : (s.pulled).scratch = s.scratch := rfl
@[simp] theorem State.pulled_mem (s : State) : (s.pulled).mem = s.mem := rfl
@[simp] theorem State.pulled_cfg (s : State) : (s.pulled).cfg = s.cfg := rfl
@[simp] theorem State.pulled_phase (s : State) : (s.pulled).phase = s.phase := rfl
@[simp] theorem State.pulled_draws (s : State) : (s.pulled).draws = s.draws := rfl
@[simp] theorem State.pulled_inputs (s : State) : (s.pulled).inputs = s.inputs := rfl
@[simp] theorem State.pushWord_pc (s : State) (w : Word) : (s.pushWord w).pc = s.pc := by simp [State.pushWord]
@[simp] theorem State.pushWord_sp (s : State) (w : Word) : (s.pushWord w).sp = s.sp - 1 - 1 := by simp [State.pushWord]
@[simp] theorem State.pushWord_a (s : State) (w : Word) : (s.pushWord w).a = s.a := by simp [State.pushWord]
@[simp] theorem State.pushWord_x (s : State) (w : Word) : (s.pushWord w).x = s.x := by simp [State.pushWord]
@[simp] theorem State.pushWord_y (s : State) (w : Word) : (s.pushWord w).y = s.y := by simp [State.pushWord]
@[simp] theorem State.pushWord_flags (s : State) (w : Word) : (s.pushWord w).flags = s.flags := by simp [State.pushWord]
@[simp] theorem State.pushWord_cycles (s : State) (w : Word) : (s.pushWord w).cycles = s.cycles := by simp [State.pushWord]
@[simp] theorem State.pushWord_scratch (s : State) (w : Word) : (s.pushWord w).scratch = s.scratch := by simp [State.pushWord]
@[simp] theorem State.pushWord_cfg (s : State) (w : Word) : (s.pushWord w).cfg = s.cfg := by simp [State.pushWord]
@[simp] theorem State.pushWord_phase (s : State) (w : Word) : (s.pushWord w).phase = s.phase := by simp [State.pushWord]
@[simp] theorem State.pushWord_draws (s : State) (w : Word) : (s.pushWord w).draws = s.draws := by simp [State.pushWord]
@[simp] theorem State.pushWord_inputs (s : State) (w : Word) : (s.pushWord w).inputs = s.inputs := by simp [State.pushWord]
@[simp] theorem State.pushFrame_pc (s : State) (ret : Word) : (s.pushFrame ret).pc = s.pc := by simp [State.pushFrame]
@[simp] theorem State.pushFrame_sp (s : State) (ret : Word) : (s.pushFrame ret).sp = s.sp - 1 - 1 - 1 := by simp [State.pushFrame]
@[simp] theorem State.pushFrame_a (s : State) (ret : Word) : (s.pushFrame ret).a = s.a := by simp [State.pushFrame]
@[simp] theorem State.pushFrame_x (s : State) (ret : Word) : (s.pushFrame ret).x = s.x := by simp [State.pushFrame]
@[simp] theorem State.pushFrame_y (s : State) (ret : Word) : (s.pushFrame ret).y = s.y := by simp [State.pushFrame]
@[simp] theorem State.pushFrame_flags (s : State) (ret : Word) : (s.pushFrame ret).flags = s.flags := by simp [State.pushFrame]
@[simp] theorem State.pushFrame_cycles (s : State) (ret : Word) : (s.pushFrame ret).cycles = s.cycles := by simp [State.pushFrame]
@[simp] theorem State.pushFrame_scratch (s : State) (ret : Word) : (s.pushFrame ret).scratch = s.scratch := by simp [State.pushFrame]
@[simp] theorem State.pushFrame_cfg (s : State) (ret : Word) : (s.pushFrame ret).cfg = s.cfg := by simp [State.pushFrame]
@[simp] theorem State.pushFrame_phase (s : State) (ret : Word) : (s.pushFrame ret).phase = s.phase := by simp [State.pushFrame]
@[simp] theorem State.pushFrame_draws (s : State) (ret : Word) : (s.pushFrame ret).draws = s.draws := by simp [State.pushFrame]
@[simp] theorem State.pushFrame_inputs (s : State) (ret : Word) : (s.pushFrame ret).inputs = s.inputs := by simp [State.pushFrame]

/-! ## A register with its flags -/

@[simp] theorem State.setA_pc (s : State) (v : Byte) : (s.setA v).pc = s.pc := rfl
@[simp] theorem State.setA_sp (s : State) (v : Byte) : (s.setA v).sp = s.sp := rfl
@[simp] theorem State.setA_a (s : State) (v : Byte) : (s.setA v).a = v := rfl
@[simp] theorem State.setA_x (s : State) (v : Byte) : (s.setA v).x = s.x := rfl
@[simp] theorem State.setA_y (s : State) (v : Byte) : (s.setA v).y = s.y := rfl
@[simp] theorem State.setA_flags (s : State) (v : Byte) : (s.setA v).flags = s.flags.setZN v := rfl
@[simp] theorem State.setA_cycles (s : State) (v : Byte) : (s.setA v).cycles = s.cycles := rfl
@[simp] theorem State.setA_scratch (s : State) (v : Byte) : (s.setA v).scratch = s.scratch := rfl
@[simp] theorem State.setA_mem (s : State) (v : Byte) : (s.setA v).mem = s.mem := rfl
@[simp] theorem State.setA_cfg (s : State) (v : Byte) : (s.setA v).cfg = s.cfg := rfl
@[simp] theorem State.setA_phase (s : State) (v : Byte) : (s.setA v).phase = s.phase := rfl
@[simp] theorem State.setA_draws (s : State) (v : Byte) : (s.setA v).draws = s.draws := rfl
@[simp] theorem State.setA_inputs (s : State) (v : Byte) : (s.setA v).inputs = s.inputs := rfl
@[simp] theorem State.setX_pc (s : State) (v : Byte) : (s.setX v).pc = s.pc := rfl
@[simp] theorem State.setX_sp (s : State) (v : Byte) : (s.setX v).sp = s.sp := rfl
@[simp] theorem State.setX_a (s : State) (v : Byte) : (s.setX v).a = s.a := rfl
@[simp] theorem State.setX_x (s : State) (v : Byte) : (s.setX v).x = v := rfl
@[simp] theorem State.setX_y (s : State) (v : Byte) : (s.setX v).y = s.y := rfl
@[simp] theorem State.setX_flags (s : State) (v : Byte) : (s.setX v).flags = s.flags.setZN v := rfl
@[simp] theorem State.setX_cycles (s : State) (v : Byte) : (s.setX v).cycles = s.cycles := rfl
@[simp] theorem State.setX_scratch (s : State) (v : Byte) : (s.setX v).scratch = s.scratch := rfl
@[simp] theorem State.setX_mem (s : State) (v : Byte) : (s.setX v).mem = s.mem := rfl
@[simp] theorem State.setX_cfg (s : State) (v : Byte) : (s.setX v).cfg = s.cfg := rfl
@[simp] theorem State.setX_phase (s : State) (v : Byte) : (s.setX v).phase = s.phase := rfl
@[simp] theorem State.setX_draws (s : State) (v : Byte) : (s.setX v).draws = s.draws := rfl
@[simp] theorem State.setX_inputs (s : State) (v : Byte) : (s.setX v).inputs = s.inputs := rfl
@[simp] theorem State.setY_pc (s : State) (v : Byte) : (s.setY v).pc = s.pc := rfl
@[simp] theorem State.setY_sp (s : State) (v : Byte) : (s.setY v).sp = s.sp := rfl
@[simp] theorem State.setY_a (s : State) (v : Byte) : (s.setY v).a = s.a := rfl
@[simp] theorem State.setY_x (s : State) (v : Byte) : (s.setY v).x = s.x := rfl
@[simp] theorem State.setY_y (s : State) (v : Byte) : (s.setY v).y = v := rfl
@[simp] theorem State.setY_flags (s : State) (v : Byte) : (s.setY v).flags = s.flags.setZN v := rfl
@[simp] theorem State.setY_cycles (s : State) (v : Byte) : (s.setY v).cycles = s.cycles := rfl
@[simp] theorem State.setY_scratch (s : State) (v : Byte) : (s.setY v).scratch = s.scratch := rfl
@[simp] theorem State.setY_mem (s : State) (v : Byte) : (s.setY v).mem = s.mem := rfl
@[simp] theorem State.setY_cfg (s : State) (v : Byte) : (s.setY v).cfg = s.cfg := rfl
@[simp] theorem State.setY_phase (s : State) (v : Byte) : (s.setY v).phase = s.phase := rfl
@[simp] theorem State.setY_draws (s : State) (v : Byte) : (s.setY v).draws = s.draws := rfl
@[simp] theorem State.setY_inputs (s : State) (v : Byte) : (s.setY v).inputs = s.inputs := rfl

/-! ## The resolver, the cycle counter, the branch -/

@[simp] theorem resolve_pc (o : Operand) (s : State) : (resolve o s).pc = s.pc + BitVec.ofNat 16 o.mode.operandBytes := rfl
@[simp] theorem resolve_sp (o : Operand) (s : State) : (resolve o s).sp = s.sp := rfl
@[simp] theorem resolve_a (o : Operand) (s : State) : (resolve o s).a = s.a := rfl
@[simp] theorem resolve_x (o : Operand) (s : State) : (resolve o s).x = s.x := rfl
@[simp] theorem resolve_y (o : Operand) (s : State) : (resolve o s).y = s.y := rfl
@[simp] theorem resolve_flags (o : Operand) (s : State) : (resolve o s).flags = s.flags := rfl
@[simp] theorem resolve_cycles (o : Operand) (s : State) : (resolve o s).cycles = s.cycles := rfl
@[simp] theorem resolve_scratch (o : Operand) (s : State) : (resolve o s).scratch = resolvedScratch o s := rfl
@[simp] theorem resolve_mem (o : Operand) (s : State) : (resolve o s).mem = s.mem := rfl
@[simp] theorem resolve_cfg (o : Operand) (s : State) : (resolve o s).cfg = s.cfg := rfl
@[simp] theorem resolve_phase (o : Operand) (s : State) : (resolve o s).phase = s.phase := rfl
@[simp] theorem resolve_draws (o : Operand) (s : State) : (resolve o s).draws = s.draws := rfl
@[simp] theorem resolve_inputs (o : Operand) (s : State) : (resolve o s).inputs = s.inputs := rfl
@[simp] theorem State.addCycles_pc (s : State) (n : Nat) : (s.addCycles n).pc = s.pc := rfl
@[simp] theorem State.addCycles_sp (s : State) (n : Nat) : (s.addCycles n).sp = s.sp := rfl
@[simp] theorem State.addCycles_a (s : State) (n : Nat) : (s.addCycles n).a = s.a := rfl
@[simp] theorem State.addCycles_x (s : State) (n : Nat) : (s.addCycles n).x = s.x := rfl
@[simp] theorem State.addCycles_y (s : State) (n : Nat) : (s.addCycles n).y = s.y := rfl
@[simp] theorem State.addCycles_flags (s : State) (n : Nat) : (s.addCycles n).flags = s.flags := rfl
@[simp] theorem State.addCycles_cycles (s : State) (n : Nat) : (s.addCycles n).cycles = s.cycles + n := rfl
@[simp] theorem State.addCycles_scratch (s : State) (n : Nat) : (s.addCycles n).scratch = s.scratch := rfl
@[simp] theorem State.addCycles_mem (s : State) (n : Nat) : (s.addCycles n).mem = s.mem := rfl
@[simp] theorem State.addCycles_cfg (s : State) (n : Nat) : (s.addCycles n).cfg = s.cfg := rfl
@[simp] theorem State.addCycles_phase (s : State) (n : Nat) : (s.addCycles n).phase = s.phase := rfl
@[simp] theorem State.addCycles_draws (s : State) (n : Nat) : (s.addCycles n).draws = s.draws := rfl
@[simp] theorem State.addCycles_inputs (s : State) (n : Nat) : (s.addCycles n).inputs = s.inputs := rfl
@[simp] theorem State.branch_sp (s : State) (cond : Bool) : (s.branch cond).sp = s.sp := by
  unfold State.branch; split <;> rfl
@[simp] theorem State.branch_a (s : State) (cond : Bool) : (s.branch cond).a = s.a := by
  unfold State.branch; split <;> rfl
@[simp] theorem State.branch_x (s : State) (cond : Bool) : (s.branch cond).x = s.x := by
  unfold State.branch; split <;> rfl
@[simp] theorem State.branch_y (s : State) (cond : Bool) : (s.branch cond).y = s.y := by
  unfold State.branch; split <;> rfl
@[simp] theorem State.branch_flags (s : State) (cond : Bool) : (s.branch cond).flags = s.flags := by
  unfold State.branch; split <;> rfl
@[simp] theorem State.branch_scratch (s : State) (cond : Bool) : (s.branch cond).scratch = s.scratch := by
  unfold State.branch; split <;> rfl
@[simp] theorem State.branch_mem (s : State) (cond : Bool) : (s.branch cond).mem = s.mem := by
  unfold State.branch; split <;> rfl
@[simp] theorem State.branch_cfg (s : State) (cond : Bool) : (s.branch cond).cfg = s.cfg := by
  unfold State.branch; split <;> rfl
@[simp] theorem State.branch_phase (s : State) (cond : Bool) : (s.branch cond).phase = s.phase := by
  unfold State.branch; split <;> rfl
@[simp] theorem State.branch_draws (s : State) (cond : Bool) : (s.branch cond).draws = s.draws := by
  unfold State.branch; split <;> rfl
@[simp] theorem State.branch_inputs (s : State) (cond : Bool) : (s.branch cond).inputs = s.inputs := by
  unfold State.branch; split <;> rfl

/-- A branch takes no cycles away. -/
theorem State.le_branch_cycles (s : State) (cond : Bool) : s.cycles ≤ (s.branch cond).cycles := by
  unfold State.branch; split <;> simp

/-! ## Results written to memory or to the accumulator -/

@[simp] theorem State.storeResult_pc (s : State) (v : Byte) : (s.storeResult v).pc = s.pc := by simp [State.storeResult]
@[simp] theorem State.storeResult_sp (s : State) (v : Byte) : (s.storeResult v).sp = s.sp := by simp [State.storeResult]
@[simp] theorem State.storeResult_a (s : State) (v : Byte) : (s.storeResult v).a = s.a := by simp [State.storeResult]
@[simp] theorem State.storeResult_x (s : State) (v : Byte) : (s.storeResult v).x = s.x := by simp [State.storeResult]
@[simp] theorem State.storeResult_y (s : State) (v : Byte) : (s.storeResult v).y = s.y := by simp [State.storeResult]
@[simp] theorem State.storeResult_flags (s : State) (v : Byte) : (s.storeResult v).flags = s.flags.setZN v := by simp [State.storeResult]
@[simp] theorem State.storeResult_cycles (s : State) (v : Byte) : (s.storeResult v).cycles = s.cycles := by simp [State.storeResult]
@[simp] theorem State.storeResult_scratch (s : State) (v : Byte) : (s.storeResult v).scratch = s.scratch := by simp [State.storeResult]
@[simp] theorem State.storeResult_cfg (s : State) (v : Byte) : (s.storeResult v).cfg = s.cfg := by simp [State.storeResult]
@[simp] theorem State.storeResult_phase (s : State) (v : Byte) : (s.storeResult v).phase = s.phase := by simp [State.storeResult]
@[simp] theorem State.storeResult_draws (s : State) (v : Byte) : (s.storeResult v).draws = s.draws := by simp [State.storeResult]
@[simp] theorem State.storeResult_inputs (s : State) (v : Byte) : (s.storeResult v).inputs = s.inputs := by simp [State.storeResult]
@[simp] theorem writeBack_pc (o : Operand) (v : Byte) (s : State) : (writeBack o v s).pc = s.pc := by
  cases o <;> simp [writeBack]
@[simp] theorem writeBack_sp (o : Operand) (v : Byte) (s : State) : (writeBack o v s).sp = s.sp := by
  cases o <;> simp [writeBack]
@[simp] theorem writeBack_x (o : Operand) (v : Byte) (s : State) : (writeBack o v s).x = s.x := by
  cases o <;> simp [writeBack]
@[simp] theorem writeBack_y (o : Operand) (v : Byte) (s : State) : (writeBack o v s).y = s.y := by
  cases o <;> simp [writeBack]
@[simp] theorem writeBack_flags (o : Operand) (v : Byte) (s : State) : (writeBack o v s).flags = s.flags := by
  cases o <;> simp [writeBack]
@[simp] theorem writeBack_cycles (o : Operand) (v : Byte) (s : State) : (writeBack o v s).cycles = s.cycles := by
  cases o <;> simp [writeBack]
@[simp] theorem writeBack_scratch (o : Operand) (v : Byte) (s : State) : (writeBack o v s).scratch = s.scratch := by
  cases o <;> simp [writeBack]
@[simp] theorem writeBack_cfg (o : Operand) (v : Byte) (s : State) : (writeBack o v s).cfg = s.cfg := by
  cases o <;> simp [writeBack]
@[simp] theorem writeBack_phase (o : Operand) (v : Byte) (s : State) : (writeBack o v s).phase = s.phase := by
  cases o <;> simp [writeBack]
@[simp] theorem writeBack_draws (o : Operand) (v : Byte) (s : State) : (writeBack o v s).draws = s.draws := by
  cases o <;> simp [writeBack]
@[simp] theorem writeBack_inputs (o : Operand) (v : Byte) (s : State) : (writeBack o v s).inputs = s.inputs := by
  cases o <;> simp [writeBack]
@[simp] theorem State.shiftTo_pc (s : State) (o : Operand) (v : Byte) (out : Bool) : (s.shiftTo o v out).pc = s.pc := by simp [State.shiftTo]
@[simp] theorem State.shiftTo_sp (s : State) (o : Operand) (v : Byte) (out : Bool) : (s.shiftTo o v out).sp = s.sp := by simp [State.shiftTo]
@[simp] theorem State.shiftTo_x (s : State) (o : Operand) (v : Byte) (out : Bool) : (s.shiftTo o v out).x = s.x := by simp [State.shiftTo]
@[simp] theorem State.shiftTo_y (s : State) (o : Operand) (v : Byte) (out : Bool) : (s.shiftTo o v out).y = s.y := by simp [State.shiftTo]
@[simp] theorem State.shiftTo_flags (s : State) (o : Operand) (v : Byte) (out : Bool) : (s.shiftTo o v out).flags = s.flags.ofShift v out := by simp [State.shiftTo]
@[simp] theorem State.shiftTo_cycles (s : State) (o : Operand) (v : Byte) (out : Bool) : (s.shiftTo o v out).cycles = s.cycles := by simp [State.shiftTo]
@[simp] theorem State.shiftTo_scratch (s : State) (o : Operand) (v : Byte) (out : Bool) : (s.shiftTo o v out).scratch = s.scratch := by simp [State.shiftTo]
@[simp] theorem State.shiftTo_cfg (s : State) (o : Operand) (v : Byte) (out : Bool) : (s.shiftTo o v out).cfg = s.cfg := by simp [State.shiftTo]
@[simp] theorem State.shiftTo_phase (s : State) (o : Operand) (v : Byte) (out : Bool) : (s.shiftTo o v out).phase = s.phase := by simp [State.shiftTo]
@[simp] theorem State.shiftTo_draws (s : State) (o : Operand) (v : Byte) (out : Bool) : (s.shiftTo o v out).draws = s.draws := by simp [State.shiftTo]
@[simp] theorem State.shiftTo_inputs (s : State) (o : Operand) (v : Byte) (out : Bool) : (s.shiftTo o v out).inputs = s.inputs := by simp [State.shiftTo]

/-! ## The break and the return from it -/

@[simp] theorem State.takeBreak_sp (s : State) : (s.takeBreak).sp = s.sp - 1 - 1 - 1 := by simp [State.takeBreak]
@[simp] theorem State.takeBreak_a (s : State) : (s.takeBreak).a = s.a := by simp [State.takeBreak]
@[simp] theorem State.takeBreak_x (s : State) : (s.takeBreak).x = s.x := by simp [State.takeBreak]
@[simp] theorem State.takeBreak_y (s : State) : (s.takeBreak).y = s.y := by simp [State.takeBreak]
@[simp] theorem State.takeBreak_flags (s : State) : (s.takeBreak).flags = { s.flags with i := true } := by simp [State.takeBreak]
@[simp] theorem State.takeBreak_cycles (s : State) : (s.takeBreak).cycles = s.cycles := by simp [State.takeBreak]
@[simp] theorem State.takeBreak_scratch (s : State) : (s.takeBreak).scratch = s.scratch := by simp [State.takeBreak]
@[simp] theorem State.takeBreak_cfg (s : State) : (s.takeBreak).cfg = s.cfg := by simp [State.takeBreak]
@[simp] theorem State.takeBreak_phase (s : State) : (s.takeBreak).phase = s.phase := by simp [State.takeBreak]
@[simp] theorem State.takeBreak_draws (s : State) : (s.takeBreak).draws = s.draws := by simp [State.takeBreak]
@[simp] theorem State.takeBreak_inputs (s : State) : (s.takeBreak).inputs = s.inputs := by simp [State.takeBreak]
@[simp] theorem State.returnFromBreak_pc (s : State) : (s.returnFromBreak).pc = s.pulled.pullWord := rfl
@[simp] theorem State.returnFromBreak_sp (s : State) : (s.returnFromBreak).sp = s.sp + 3 := rfl
@[simp] theorem State.returnFromBreak_a (s : State) : (s.returnFromBreak).a = s.a := rfl
@[simp] theorem State.returnFromBreak_x (s : State) : (s.returnFromBreak).x = s.x := rfl
@[simp] theorem State.returnFromBreak_y (s : State) : (s.returnFromBreak).y = s.y := rfl
@[simp] theorem State.returnFromBreak_flags (s : State) : (s.returnFromBreak).flags = unpackFlags s.cfg.flagLayout s.pullByte := rfl
@[simp] theorem State.returnFromBreak_cycles (s : State) : (s.returnFromBreak).cycles = s.cycles := rfl
@[simp] theorem State.returnFromBreak_scratch (s : State) : (s.returnFromBreak).scratch = s.scratch := rfl
@[simp] theorem State.returnFromBreak_mem (s : State) : (s.returnFromBreak).mem = s.mem := rfl
@[simp] theorem State.returnFromBreak_cfg (s : State) : (s.returnFromBreak).cfg = s.cfg := rfl
@[simp] theorem State.returnFromBreak_phase (s : State) : (s.returnFromBreak).phase = s.phase := rfl
@[simp] theorem State.returnFromBreak_draws (s : State) : (s.returnFromBreak).draws = s.draws := rfl
@[simp] theorem State.returnFromBreak_inputs (s : State) : (s.returnFromBreak).inputs = s.inputs := rfl

/-! ## The addition and the pull of PLA -/

@[simp] theorem State.addWithCarry_pc (s : State) (n : Byte) : (s.addWithCarry n).pc = s.pc := rfl
@[simp] theorem State.addWithCarry_sp (s : State) (n : Byte) : (s.addWithCarry n).sp = s.sp := rfl
@[simp] theorem State.addWithCarry_a (s : State) (n : Byte) : (s.addWithCarry n).a = BitVec.ofNat 8 (s.a.toNat + n.toNat + bit01 s.flags.c) := rfl
@[simp] theorem State.addWithCarry_x (s : State) (n : Byte) : (s.addWithCarry n).x = s.x := rfl
@[simp] theorem State.addWithCarry_y (s : State) (n : Byte) : (s.addWithCarry n).y = s.y := rfl
@[simp] theorem State.addWithCarry_flags (s : State) (n : Byte) : (s.addWithCarry n).flags = s.flags.ofSum s.a n (s.a.toNat + n.toNat + bit01 s.flags.c) := rfl
@[simp] theorem State.addWithCarry_cycles (s : State) (n : Byte) : (s.addWithCarry n).cycles = s.cycles := rfl
@[simp] theorem State.addWithCarry_scratch (s : State) (n : Byte) : (s.addWithCarry n).scratch = { s.scratch with temp := ((s.a.toNat + n.toNat + bit01 s.flags.c : Nat) : Int) } := rfl
@[simp] theorem State.addWithCarry_mem (s : State) (n : Byte) : (s.addWithCarry n).mem = s.mem := rfl
@[simp] theorem State.addWithCarry_cfg (s : State) (n : Byte) : (s.addWithCarry n).cfg = s.cfg := rfl
@[simp] theorem State.addWithCarry_phase (s : State) (n : Byte) : (s.addWithCarry n).phase = s.phase := rfl
@[simp] theorem State.addWithCarry_draws (s : State) (n : Byte) : (s.addWithCarry n).draws = s.draws := rfl
@[simp] theorem State.addWithCarry_inputs (s : State) (n : Byte) : (s.addWithCarry n).inputs = s.inputs := rfl
@[simp] theorem State.pullA_pc (s : State) : s.pullA.pc = s.pc := rfl
@[simp] theorem State.pullA_sp (s : State) : s.pullA.sp = s.sp + 1 := rfl
@[simp] theorem State.pullA_a (s : State) : s.pullA.a = s.pullByte := rfl
@[simp] theorem State.pullA_x (s : State) : s.pullA.x = s.x := rfl
@[simp] theorem State.pullA_y (s : State) : s.pullA.y = s.y := rfl
@[simp] theorem State.pullA_flags (s : State) : s.pullA.flags = s.flags.setZN s.pullByte := rfl
@[simp] theorem State.pullA_cycles (s : State) : s.pullA.cycles = s.cycles := rfl
@[simp] theorem State.pullA_scratch (s : State) : s.pullA.scratch = s.scratch := rfl
@[simp] theorem State.pullA_mem (s : State) : s.pullA.mem = s.mem := rfl
@[simp] theorem State.pullA_cfg (s : State) : s.pullA.cfg = s.cfg := rfl
@[simp] theorem State.pullA_phase (s : State) : s.pullA.phase = s.phase := rfl
@[simp] theorem State.pullA_draws (s : State) : s.pullA.draws = s.draws := rfl
@[simp] theorem State.pullA_inputs (s : State) : s.pullA.inputs = s.inputs := rfl
@[simp] theorem State.pullADefect_pc (s : State) : s.pullADefect.pc = s.pc := rfl
@[simp] theorem State.pullADefect_sp (s : State) : s.pullADefect.sp = s.sp + 1 := rfl
@[simp] theorem State.pullADefect_a (s : State) : s.pullADefect.a = 0x00 := rfl
@[simp] theorem State.pullADefect_x (s : State) : s.pullADefect.x = s.x := rfl
@[simp] theorem State.pullADefect_y (s : State) : s.pullADefect.y = s.y := rfl
@[simp] theorem State.pullADefect_flags (s : State) : s.pullADefect.flags = { s.flags with z := false, n := sign s.pullByte && Config.freeBit s.draws } := rfl
@[simp] theorem State.pullADefect_cycles (s : State) : s.pullADefect.cycles = s.cycles := rfl
@[simp] theorem State.pullADefect_scratch (s : State) : s.pullADefect.scratch = s.scratch := rfl
@[simp] theorem State.pullADefect_mem (s : State) : s.pullADefect.mem = s.mem := rfl
@[simp] theorem State.pullADefect_cfg (s : State) : s.pullADefect.cfg = s.cfg := rfl
@[simp] theorem State.pullADefect_phase (s : State) : s.pullADefect.phase = s.phase := rfl
@[simp] theorem State.pullADefect_draws (s : State) : s.pullADefect.draws = s.draws + 1 := rfl
@[simp] theorem State.pullADefect_inputs (s : State) : s.pullADefect.inputs = s.inputs := rfl
@[simp] theorem State.pla_pc (s : State) : s.pla.pc = s.pc := by
  unfold State.pla; split <;> rfl
@[simp] theorem State.pla_sp (s : State) : s.pla.sp = s.sp + 1 := by
  unfold State.pla; split <;> rfl
@[simp] theorem State.pla_x (s : State) : s.pla.x = s.x := by
  unfold State.pla; split <;> rfl
@[simp] theorem State.pla_y (s : State) : s.pla.y = s.y := by
  unfold State.pla; split <;> rfl
@[simp] theorem State.pla_cycles (s : State) : s.pla.cycles = s.cycles := by
  unfold State.pla; split <;> rfl
@[simp] theorem State.pla_scratch (s : State) : s.pla.scratch = s.scratch := by
  unfold State.pla; split <;> rfl
@[simp] theorem State.pla_mem (s : State) : s.pla.mem = s.mem := by
  unfold State.pla; split <;> rfl
@[simp] theorem State.pla_cfg (s : State) : s.pla.cfg = s.cfg := by
  unfold State.pla; split <;> rfl
@[simp] theorem State.pla_phase (s : State) : s.pla.phase = s.phase := by
  unfold State.pla; split <;> rfl
@[simp] theorem State.pla_inputs (s : State) : s.pla.inputs = s.inputs := by
  unfold State.pla; split <;> rfl

/-- PLA writes no flag but `Z` and `N`. -/
@[simp] theorem State.pla_other_flags (s : State) :
    s.pla.flags.c = s.flags.c ∧ s.pla.flags.i = s.flags.i ∧ s.pla.flags.d = s.flags.d ∧ s.pla.flags.b = s.flags.b ∧
      s.pla.flags.v = s.flags.v ∧ s.pla.flags.u = s.flags.u := by
  unfold State.pla; split <;> exact ⟨rfl, rfl, rfl, rfl, rfl, rfl⟩

/-! ## What the host does -/

@[simp] theorem State.hostReset_pc (s : State) : (s.hostReset).pc = hiLo (s.rd 0xFFFD) (s.rd 0xFFFC) := rfl
@[simp] theorem State.hostReset_sp (s : State) : (s.hostReset).sp = s.cfg.resetSp := rfl
@[simp] theorem State.hostReset_a (s : State) : (s.hostReset).a = 0x00 := rfl
@[simp] theorem State.hostReset_x (s : State) : (s.hostReset).x = 0x00 := rfl
@[simp] theorem State.hostReset_y (s : State) : (s.hostReset).y = 0x00 := rfl
@[simp] theorem State.hostReset_flags (s : State) : (s.hostReset).flags = Flags.clear := rfl
@[simp] theorem State.hostReset_cycles (s : State) : (s.hostReset).cycles = s.cfg.resetCycles.val := rfl
@[simp] theorem State.hostReset_scratch (s : State) : (s.hostReset).scratch = Scratch.zero := rfl
@[simp] theorem State.hostReset_mem (s : State) : (s.hostReset).mem = s.mem := rfl
@[simp] theorem State.hostReset_cfg (s : State) : (s.hostReset).cfg = s.cfg := rfl
@[simp] theorem State.hostReset_phase (s : State) : (s.hostReset).phase = .running := rfl
@[simp] theorem State.hostReset_draws (s : State) : (s.hostReset).draws = s.draws := rfl
@[simp] theorem State.hostReset_inputs (s : State) : (s.hostReset).inputs = s.inputs := rfl
@[simp] theorem State.windowWrites_pc (s : State) (ws : List WindowWrite) : (s.windowWrites ws).pc = s.pc := by
  unfold State.windowWrites
  induction ws generalizing s with
  | nil => rfl
  | cons w ws ih => simp [ih]
@[simp] theorem State.windowWrites_sp (s : State) (ws : List WindowWrite) : (s.windowWrites ws).sp = s.sp := by
  unfold State.windowWrites
  induction ws generalizing s with
  | nil => rfl
  | cons w ws ih => simp [ih]
@[simp] theorem State.windowWrites_a (s : State) (ws : List WindowWrite) : (s.windowWrites ws).a = s.a := by
  unfold State.windowWrites
  induction ws generalizing s with
  | nil => rfl
  | cons w ws ih => simp [ih]
@[simp] theorem State.windowWrites_x (s : State) (ws : List WindowWrite) : (s.windowWrites ws).x = s.x := by
  unfold State.windowWrites
  induction ws generalizing s with
  | nil => rfl
  | cons w ws ih => simp [ih]
@[simp] theorem State.windowWrites_y (s : State) (ws : List WindowWrite) : (s.windowWrites ws).y = s.y := by
  unfold State.windowWrites
  induction ws generalizing s with
  | nil => rfl
  | cons w ws ih => simp [ih]
@[simp] theorem State.windowWrites_flags (s : State) (ws : List WindowWrite) : (s.windowWrites ws).flags = s.flags := by
  unfold State.windowWrites
  induction ws generalizing s with
  | nil => rfl
  | cons w ws ih => simp [ih]
@[simp] theorem State.windowWrites_cycles (s : State) (ws : List WindowWrite) : (s.windowWrites ws).cycles = s.cycles := by
  unfold State.windowWrites
  induction ws generalizing s with
  | nil => rfl
  | cons w ws ih => simp [ih]
@[simp] theorem State.windowWrites_scratch (s : State) (ws : List WindowWrite) : (s.windowWrites ws).scratch = s.scratch := by
  unfold State.windowWrites
  induction ws generalizing s with
  | nil => rfl
  | cons w ws ih => simp [ih]
@[simp] theorem State.windowWrites_cfg (s : State) (ws : List WindowWrite) : (s.windowWrites ws).cfg = s.cfg := by
  unfold State.windowWrites
  induction ws generalizing s with
  | nil => rfl
  | cons w ws ih => simp [ih]
@[simp] theorem State.windowWrites_phase (s : State) (ws : List WindowWrite) : (s.windowWrites ws).phase = s.phase := by
  unfold State.windowWrites
  induction ws generalizing s with
  | nil => rfl
  | cons w ws ih => simp [ih]
@[simp] theorem State.windowWrites_draws (s : State) (ws : List WindowWrite) : (s.windowWrites ws).draws = s.draws := by
  unfold State.windowWrites
  induction ws generalizing s with
  | nil => rfl
  | cons w ws ih => simp [ih]
@[simp] theorem State.windowWrites_inputs (s : State) (ws : List WindowWrite) : (s.windowWrites ws).inputs = s.inputs := by
  unfold State.windowWrites
  induction ws generalizing s with
  | nil => rfl
  | cons w ws ih => simp [ih]
@[simp] theorem State.endTick_pc (s : State) (ws : List WindowWrite) : (s.endTick ws).pc = s.pc := by simp [State.endTick]
@[simp] theorem State.endTick_sp (s : State) (ws : List WindowWrite) : (s.endTick ws).sp = s.sp := by simp [State.endTick]
@[simp] theorem State.endTick_a (s : State) (ws : List WindowWrite) : (s.endTick ws).a = s.a := by simp [State.endTick]
@[simp] theorem State.endTick_x (s : State) (ws : List WindowWrite) : (s.endTick ws).x = s.x := by simp [State.endTick]
@[simp] theorem State.endTick_y (s : State) (ws : List WindowWrite) : (s.endTick ws).y = s.y := by simp [State.endTick]
@[simp] theorem State.endTick_flags (s : State) (ws : List WindowWrite) : (s.endTick ws).flags = s.flags := by simp [State.endTick]
@[simp] theorem State.endTick_cycles (s : State) (ws : List WindowWrite) : (s.endTick ws).cycles = s.cycles - 1 := by simp [State.endTick]
@[simp] theorem State.endTick_scratch (s : State) (ws : List WindowWrite) : (s.endTick ws).scratch = s.scratch := by simp [State.endTick]
@[simp] theorem State.endTick_cfg (s : State) (ws : List WindowWrite) : (s.endTick ws).cfg = s.cfg := by simp [State.endTick]
@[simp] theorem State.endTick_phase (s : State) (ws : List WindowWrite) : (s.endTick ws).phase = s.phase := by simp [State.endTick]
@[simp] theorem State.endTick_draws (s : State) (ws : List WindowWrite) : (s.endTick ws).draws = s.draws := by simp [State.endTick]
@[simp] theorem State.endTick_inputs (s : State) (ws : List WindowWrite) : (s.endTick ws).inputs = s.inputs := by simp [State.endTick]
@[simp] theorem State.writeBytes_pc (s : State) (a : Nat) (bs : List Byte) : (s.writeBytes a bs).pc = s.pc := by
  induction bs generalizing s a with
  | nil => rfl
  | cons b bs ih => simp [State.writeBytes, ih]
@[simp] theorem State.writeBytes_sp (s : State) (a : Nat) (bs : List Byte) : (s.writeBytes a bs).sp = s.sp := by
  induction bs generalizing s a with
  | nil => rfl
  | cons b bs ih => simp [State.writeBytes, ih]
@[simp] theorem State.writeBytes_a (s : State) (a : Nat) (bs : List Byte) : (s.writeBytes a bs).a = s.a := by
  induction bs generalizing s a with
  | nil => rfl
  | cons b bs ih => simp [State.writeBytes, ih]
@[simp] theorem State.writeBytes_x (s : State) (a : Nat) (bs : List Byte) : (s.writeBytes a bs).x = s.x := by
  induction bs generalizing s a with
  | nil => rfl
  | cons b bs ih => simp [State.writeBytes, ih]
@[simp] theorem State.writeBytes_y (s : State) (a : Nat) (bs : List Byte) : (s.writeBytes a bs).y = s.y := by
  induction bs generalizing s a with
  | nil => rfl
  | cons b bs ih => simp [State.writeBytes, ih]
@[simp] theorem State.writeBytes_flags (s : State) (a : Nat) (bs : List Byte) : (s.writeBytes a bs).flags = s.flags := by
  induction bs generalizing s a with
  | nil => rfl
  | cons b bs ih => simp [State.writeBytes, ih]
@[simp] theorem State.writeBytes_cycles (s : State) (a : Nat) (bs : List Byte) : (s.writeBytes a bs).cycles = s.cycles := by
  induction bs generalizing s a with
  | nil => rfl
  | cons b bs ih => simp [State.writeBytes, ih]
@[simp] theorem State.writeBytes_scratch (s : State) (a : Nat) (bs : List Byte) : (s.writeBytes a bs).scratch = s.scratch := by
  induction bs generalizing s a with
  | nil => rfl
  | cons b bs ih => simp [State.writeBytes, ih]
@[simp] theorem State.writeBytes_cfg (s : State) (a : Nat) (bs : List Byte) : (s.writeBytes a bs).cfg = s.cfg := by
  induction bs generalizing s a with
  | nil => rfl
  | cons b bs ih => simp [State.writeBytes, ih]
@[simp] theorem State.writeBytes_phase (s : State) (a : Nat) (bs : List Byte) : (s.writeBytes a bs).phase = s.phase := by
  induction bs generalizing s a with
  | nil => rfl
  | cons b bs ih => simp [State.writeBytes, ih]
@[simp] theorem State.writeBytes_draws (s : State) (a : Nat) (bs : List Byte) : (s.writeBytes a bs).draws = s.draws := by
  induction bs generalizing s a with
  | nil => rfl
  | cons b bs ih => simp [State.writeBytes, ih]
@[simp] theorem State.writeBytes_inputs (s : State) (a : Nat) (bs : List Byte) : (s.writeBytes a bs).inputs = s.inputs := by
  induction bs generalizing s a with
  | nil => rfl
  | cons b bs ih => simp [State.writeBytes, ih]

/-! ## The opcode fetch -/

@[simp] theorem State.fetched_pc (s : State) : (s.fetched).pc = s.pc + 1 := rfl
@[simp] theorem State.fetched_sp (s : State) : (s.fetched).sp = s.sp := rfl
@[simp] theorem State.fetched_a (s : State) : (s.fetched).a = s.a := rfl
@[simp] theorem State.fetched_x (s : State) : (s.fetched).x = s.x := rfl
@[simp] theorem State.fetched_y (s : State) : (s.fetched).y = s.y := rfl
@[simp] theorem State.fetched_flags (s : State) : (s.fetched).flags = s.flags := rfl
@[simp] theorem State.fetched_cycles (s : State) : (s.fetched).cycles = (descriptor s.cfg (s.rd s.pc)).base := rfl
@[simp] theorem State.fetched_scratch (s : State) : (s.fetched).scratch = { s.scratch with opcode := s.rd s.pc } := rfl
@[simp] theorem State.fetched_mem (s : State) : (s.fetched).mem = s.mem := rfl
@[simp] theorem State.fetched_cfg (s : State) : (s.fetched).cfg = s.cfg := rfl
@[simp] theorem State.fetched_phase (s : State) : (s.fetched).phase = s.phase := rfl
@[simp] theorem State.fetched_draws (s : State) : (s.fetched).draws = s.draws := rfl
@[simp] theorem State.fetched_inputs (s : State) : (s.fetched).inputs = s.inputs := rfl

/-! ## The flag computations -/

@[simp] theorem Flags.setZN_z (f : Flags) (v : Byte) : (f.setZN v).z = decide (v = 0) := rfl
@[simp] theorem Flags.setZN_n (f : Flags) (v : Byte) : (f.setZN v).n = sign v := rfl
@[simp] theorem Flags.setZN_c (f : Flags) (v : Byte) : (f.setZN v).c = f.c := rfl
@[simp] theorem Flags.setZN_i (f : Flags) (v : Byte) : (f.setZN v).i = f.i := rfl
@[simp] theorem Flags.setZN_d (f : Flags) (v : Byte) : (f.setZN v).d = f.d := rfl
@[simp] theorem Flags.setZN_b (f : Flags) (v : Byte) : (f.setZN v).b = f.b := rfl
@[simp] theorem Flags.setZN_v (f : Flags) (v : Byte) : (f.setZN v).v = f.v := rfl
@[simp] theorem Flags.setZN_u (f : Flags) (v : Byte) : (f.setZN v).u = f.u := rfl

end Sys2Proof.Machine
end

