-- ==== Sys2Proof/Laws/Memory.lean ====
section
/-! SUPPORT. The laws of memory: reading after writing, for any list of cells, and the canonical form, which every
memory operation keeps. -/

namespace Sys2Proof.Machine

namespace Memory

theorem get_filter_same (m : List Host.Cell) (a : Nat) : get (m.filter fun c => c.1 ≠ a) a = unlistedByte := by
  induction m with
  | nil => rfl
  | cons c m ih =>
    obtain ⟨k, v⟩ := c
    by_cases h : k = a <;> simp_all [get]

theorem get_filter_other (m : List Host.Cell) {a b : Nat} (h : b ≠ a) :
    get (m.filter fun c => c.1 ≠ a) b = get m b := by
  induction m with
  | nil => rfl
  | cons c m ih =>
    obtain ⟨k, v⟩ := c
    by_cases hk : k = a
    · have hkb : k ≠ b := fun e => h (e ▸ hk)
      simp_all [get]
    · simp_all [get]

theorem get_insert_same (m : List Host.Cell) (a : Nat) (v : Byte) (h : ∀ c ∈ m, c.1 ≠ a) :
    get (insert a v m) a = v := by
  induction m with
  | nil => simp [insert, get]
  | cons c m ih =>
    obtain ⟨k, w⟩ := c
    have hk : k ≠ a := h (k, w) (by simp)
    have hm : ∀ c ∈ m, c.1 ≠ a := fun c hc => h c (by simp [hc])
    unfold insert
    split <;> simp [get, hk, ih hm]

theorem get_insert_other (m : List Host.Cell) {a b : Nat} (v : Byte) (h : b ≠ a) :
    get (insert a v m) b = get m b := by
  induction m with
  | nil => simp [insert, get, Ne.symm h]
  | cons c m ih =>
    obtain ⟨k, w⟩ := c
    unfold insert
    split
    · simp [get, Ne.symm h]
    · by_cases hk : k = b <;> simp [get, hk, ih]

/-- A byte reads as what was last written there. -/
theorem get_set_same (m : List Host.Cell) (a : Nat) (v : Byte) : get (set m a v) a = v := by
  unfold set
  dsimp only
  split
  · next h => rw [h]; exact get_filter_same m a
  · exact get_insert_same _ _ _ (by simp)

/-- A write leaves every other byte alone. -/
theorem get_set_other (m : List Host.Cell) {a b : Nat} (v : Byte) (h : b ≠ a) : get (set m a v) b = get m b := by
  unfold set
  dsimp only
  split
  · exact get_filter_other m h
  · rw [get_insert_other _ _ h, get_filter_other m h]

theorem mem_insert {c : Host.Cell} {a : Nat} {v : Byte} {m : List Host.Cell} (h : c ∈ insert a v m) :
    c = (a, v) ∨ c ∈ m := by
  induction m with
  | nil => simpa [insert] using h
  | cons d m ih =>
    obtain ⟨k, w⟩ := d
    unfold insert at h
    split at h
    · simpa using h
    · rcases List.mem_cons.1 h with h | h
      · exact .inr (by simp [h])
      · rcases ih h with h | h
        · exact .inl h
        · exact .inr (List.mem_cons_of_mem _ h)

theorem insert_rising (m : List Host.Cell) (a : Nat) (v : Byte) (hs : m.Pairwise fun c d => c.1 < d.1)
    (ha : ∀ c ∈ m, c.1 ≠ a) : (insert a v m).Pairwise fun c d => c.1 < d.1 := by
  induction m with
  | nil => simp [insert]
  | cons c m ih =>
    obtain ⟨k, w⟩ := c
    have hk : k ≠ a := ha (k, w) (by simp)
    rw [List.pairwise_cons] at hs
    unfold insert
    split
    · next h =>
      refine List.pairwise_cons.2 ⟨fun d hd => ?_, List.pairwise_cons.2 hs⟩
      rcases List.mem_cons.1 hd with rfl | hd
      · exact h
      · exact Nat.lt_trans h (hs.1 d hd)
    · next h =>
      refine List.pairwise_cons.2 ⟨fun d hd => ?_, ih hs.2 fun c hc => ha c (by simp [hc])⟩
      rcases mem_insert hd with rfl | hd
      · exact Nat.lt_of_le_of_ne (Nat.le_of_not_lt h) hk
      · exact hs.1 d hd

/-- A write to a mapped address keeps the canonical form. -/
theorem set_wf (m : List Host.Cell) (a : Nat) (v : Byte) (hm : wf m) (ha : isMapped a = true) : wf (set m a v) := by
  have hf : wf (m.filter fun c => c.1 ≠ a) :=
    ⟨hm.1.filter _, fun c hc => hm.2 c (List.mem_filter.1 hc).1⟩
  unfold set
  dsimp only
  split
  · exact hf
  · next hv =>
    refine ⟨insert_rising _ _ _ hf.1 (by simp), fun c hc => ?_⟩
    rcases mem_insert hc with rfl | hc
    · exact ⟨hv, ha⟩
    · exact hf.2 c hc

end Memory

/-! ## The bus -/

/-- A mapped byte reads as what was written there. -/
theorem State.rd_wr_same (s : State) (a : Word) (v : Byte) (h : isMapped a.toNat = true) : (s.wr a v).rd a = v := by
  simp [State.rd, State.wr, h, Memory.get_set_same]

/-- A write leaves every other address alone. -/
theorem State.rd_wr_other (s : State) {a b : Word} (v : Byte) (h : b ≠ a) : (s.wr a v).rd b = s.rd b := by
  unfold State.rd State.wr
  have hn : b.toNat ≠ a.toNat := fun e => h (BitVec.eq_of_toNat_eq e)
  by_cases ha : isMapped a.toNat <;> simp [ha, Memory.get_set_other _ _ hn]

/-- An address outside every region reads as 0. -/
theorem State.rd_unmapped (s : State) (a : Word) (h : isMapped a.toNat = false) : s.rd a = 0x00 := by
  simp [State.rd, h]

/-- A write outside every region is lost. -/
theorem State.wr_unmapped (s : State) (a : Word) (v : Byte) (h : isMapped a.toNat = false) : s.wr a v = s := by
  simp [State.wr, h]

/-- Reading depends on memory alone. -/
theorem State.rd_congr {s t : State} (h : s.mem = t.mem) (a : Word) : s.rd a = t.rd a := by
  simp [State.rd, h]

/-- A bus write keeps the canonical form. -/
theorem State.wr_wf (s : State) (a : Word) (v : Byte) (h : Memory.wf s.mem) : Memory.wf (s.wr a v).mem := by
  unfold State.wr
  split
  · next ha => exact Memory.set_wf _ _ _ h ha
  · exact h

/-! ## Every operation over memory keeps the canonical form -/

theorem State.push_wf (s : State) (v : Byte) (h : Memory.wf s.mem) : Memory.wf (s.push v).mem := s.wr_wf _ v h

theorem State.pushWord_wf (s : State) (w : Word) (h : Memory.wf s.mem) : Memory.wf (s.pushWord w).mem :=
  State.push_wf _ _ (s.push_wf _ h)

theorem State.pushFrame_wf (s : State) (ret : Word) (h : Memory.wf s.mem) : Memory.wf (s.pushFrame ret).mem :=
  State.push_wf _ _ (s.pushWord_wf ret h)

theorem State.takeBreak_wf (s : State) (h : Memory.wf s.mem) : Memory.wf s.takeBreak.mem := s.pushFrame_wf _ h

theorem State.storeResult_wf (s : State) (v : Byte) (h : Memory.wf s.mem) : Memory.wf (s.storeResult v).mem :=
  s.wr_wf _ v h

theorem writeBack_wf (o : Operand) (v : Byte) (s : State) (h : Memory.wf s.mem) : Memory.wf (writeBack o v s).mem := by
  cases o <;> first | exact h | exact s.wr_wf _ v h

theorem State.shiftTo_wf (s : State) (o : Operand) (v : Byte) (out : Bool) (h : Memory.wf s.mem) :
    Memory.wf (s.shiftTo o v out).mem := writeBack_wf o v _ h

theorem State.windowWrites_wf (s : State) (ws : List WindowWrite) (h : Memory.wf s.mem) :
    Memory.wf (s.windowWrites ws).mem := by
  unfold State.windowWrites
  induction ws generalizing s with
  | nil => exact h
  | cons w ws ih => exact ih _ (s.wr_wf _ _ h)

theorem State.endTick_wf (s : State) (ws : List WindowWrite) (h : Memory.wf s.mem) : Memory.wf (s.endTick ws).mem :=
  State.windowWrites_wf _ ws h

theorem State.writeBytes_wf (s : State) (a : Nat) (bs : List Byte) (h : Memory.wf s.mem) :
    Memory.wf (s.writeBytes a bs).mem := by
  induction bs generalizing s a with
  | nil => exact h
  | cons b bs ih => exact ih _ _ (s.wr_wf _ _ h)

/-- Reset memory, which lists nothing, is in canonical form. -/
theorem State.reset_mem_wf : Memory.wf State.reset.mem := ⟨List.Pairwise.nil, by simp [State.reset]⟩

end Sys2Proof.Machine
end

