-- ==== Sys2Proof/Laws/Ops.lean ====
section
/-! SUPPORT. What each shared operation can do, once: where the stack lies, what a push and a pull read and write, the
frame of every operation, and that every arm of `exec` runs in it. -/

namespace Sys2Proof.Machine

/-! ## The address map -/

theorem isMapped_iff (a : Nat) :
    isMapped a = true ↔ a < 0x200 ∨ (0x400 ≤ a ∧ a < 0x405) ∨ (0x500 ≤ a ∧ a < 0x503) ∨ (0x1000 ≤ a ∧ a < 0x10000) := by
  simp [isMapped, memoryMap, Region.holds]
  omega

/-! ## The stack -/

theorem toNat_stackAddr (sp : Byte) : (stackAddr sp).toNat = 0x100 + sp.toNat := by
  have := sp.isLt
  have h : (0x0100 : Word).toNat = 0x100 := rfl
  rw [stackAddr, BitVec.toNat_add, toNat_zext16, h]
  omega

theorem stackAddr_mapped (sp : Byte) : isMapped (stackAddr sp).toNat = true := by
  have := sp.isLt
  rw [isMapped_iff, toNat_stackAddr]
  omega

theorem stackAddr_inj {p q : Byte} : stackAddr p = stackAddr q ↔ p = q := by
  refine ⟨fun h => BitVec.eq_of_toNat_eq ?_, fun h => h ▸ rfl⟩
  have := congrArg BitVec.toNat h
  rw [toNat_stackAddr, toNat_stackAddr] at this
  omega

/-- The pushed byte lies at the old stack address. -/
theorem State.rd_push_same (s : State) (v : Byte) : (s.push v).rd (stackAddr s.sp) = v :=
  s.rd_wr_same _ v (stackAddr_mapped s.sp)

/-- A push leaves every other address alone. -/
theorem State.rd_push_other (s : State) (v : Byte) {b : Word} (h : b ≠ stackAddr s.sp) : (s.push v).rd b = s.rd b :=
  s.rd_wr_other v h

/-- What was pushed last is pulled first. -/
theorem State.pullByte_push (s : State) (v : Byte) : (s.push v).pullByte = v := by
  have h : (s.push v).sp + 1 = s.sp := by simp
  rw [State.pullByte, h]
  exact s.rd_push_same v

theorem State.rd_pulled (s : State) (a : Word) : s.pulled.rd a = s.rd a := rfl

/-- Three bytes of the stack in a row are three different bytes. -/
theorem stackAddr_sub_one_ne (sp : Byte) : stackAddr (sp - 1) ≠ stackAddr sp := by
  rw [Ne, stackAddr_inj]; bv_omega

theorem stackAddr_sub_two_ne (sp : Byte) : stackAddr (sp - 1 - 1) ≠ stackAddr sp := by
  rw [Ne, stackAddr_inj]; bv_omega

/-- Pushing a word leaves every address but its two alone. -/
theorem State.rd_pushWord_other (s : State) (w : Word) {b : Word} (h₁ : b ≠ stackAddr s.sp)
    (h₂ : b ≠ stackAddr (s.sp - 1)) : (s.pushWord w).rd b = s.rd b := by
  rw [State.pushWord, State.rd_push_other _ _ h₂, State.rd_push_other _ _ h₁]

/-- The high byte of a pushed word lies at the old stack address. -/
theorem State.rd_pushWord_hi (s : State) (w : Word) : (s.pushWord w).rd (stackAddr s.sp) = hi8 w := by
  rw [State.pushWord, State.rd_push_other _ _ (stackAddr_sub_one_ne s.sp).symm, State.rd_push_same]

/-- The low byte of a pushed word lies below its high byte. -/
theorem State.rd_pushWord_lo (s : State) (w : Word) : (s.pushWord w).rd (stackAddr (s.sp - 1)) = lo8 w :=
  State.rd_push_same (s.push (hi8 w)) (lo8 w)

/-- What a frame on the stack holds, and that it leaves every other address alone. -/
theorem State.rd_pushFrame (s : State) (ret : Word) :
    (s.pushFrame ret).rd (stackAddr s.sp) = hi8 ret ∧ (s.pushFrame ret).rd (stackAddr (s.sp - 1)) = lo8 ret ∧
    (s.pushFrame ret).rd (stackAddr (s.sp - 1 - 1)) = s.flags.pack s.cfg.flagLayout true ∧
    ∀ b : Word, b ≠ stackAddr s.sp → b ≠ stackAddr (s.sp - 1) → b ≠ stackAddr (s.sp - 1 - 1) →
      (s.pushFrame ret).rd b = s.rd b := by
  refine ⟨?_, ?_, State.rd_push_same (s.pushWord ret) _, fun b h₁ h₂ h₃ => ?_⟩
  · rw [State.pushFrame, State.rd_push_other _ _ (by simpa using (stackAddr_sub_two_ne s.sp).symm),
      State.rd_pushWord_hi]
  · rw [State.pushFrame, State.rd_push_other _ _ (by simpa using (stackAddr_sub_one_ne (s.sp - 1)).symm),
      State.rd_pushWord_lo]
  · rw [State.pushFrame, State.rd_push_other _ _ (by simpa using h₃), State.rd_pushWord_other _ _ h₁ h₂]

/-- A word that was pushed last is the word that two pulls give. -/
theorem State.pullWord_pushWord (s : State) (w : Word) : (s.pushWord w).pullWord = w := by
  have h1 : (s.pushWord w).sp + 1 = s.sp - 1 := by simp
  have h2 : (s.pushWord w).sp + 1 + 1 = s.sp := by rw [h1]; simp
  simp only [State.pullWord, State.pullByte, State.pulled_sp, State.rd_pulled]
  rw [h2, h1, State.rd_pushWord_lo, State.rd_pushWord_hi, hiLo_hi8_lo8]

/-! ## The break -/

/-- Taking a break writes its frame and nothing else of memory. -/
theorem State.rd_takeBreak (s : State) (b : Word) : s.takeBreak.rd b = (s.pushFrame (s.pc + 1)).rd b := rfl

/-- The frame lies below 0x0200. -/
theorem State.rd_pushFrame_above (s : State) (ret : Word) {b : Word} (h : 0x200 ≤ b.toNat) :
    (s.pushFrame ret).rd b = s.rd b := by
  have below (sp : Byte) : b ≠ stackAddr sp := by
    rintro rfl
    have := sp.isLt
    rw [toNat_stackAddr] at h
    omega
  exact (s.rd_pushFrame ret).2.2.2 b (below _) (below _) (below _)

/-- A break goes to the vector its state had before the frame was pushed. -/
theorem State.takeBreak_pc (s : State) : s.takeBreak.pc = s.brkVector := by
  simp only [State.takeBreak, State.brkVector, State.pushFrame_cfg, s.rd_pushFrame_above _ (b := 0xFFFE) (by decide),
    s.rd_pushFrame_above _ (b := 0xFFFF) (by decide)]

/-! ## What the host writes -/

/-- The peripherals write in the two windows only. -/
theorem State.rd_windowWrites_other (s : State) (ws : List WindowWrite) {a : Word}
    (h₁ : ¬ (0x400 ≤ a.toNat ∧ a.toNat < 0x405)) (h₂ : ¬ (0x500 ≤ a.toNat ∧ a.toNat < 0x503)) :
    (s.windowWrites ws).rd a = s.rd a := by
  unfold State.windowWrites
  induction ws generalizing s with
  | nil => rfl
  | cons w ws ih =>
    rw [List.foldl_cons, ih, State.rd_wr_other]
    rintro rfl
    rcases w with ⟨⟨k⟩ | ⟨k⟩, v⟩ <;> simp [WindowCell.addr] at h₁ h₂ <;> omega

/-- A window's byte is mapped. -/
theorem WindowCell.addr_mapped (c : WindowCell) : isMapped c.addr.toNat = true := by
  rw [isMapped_iff]
  rcases c with ⟨k⟩ | ⟨k⟩ <;> simp [WindowCell.addr] <;> omega

/-- After the peripherals' writes an address holds the last byte they wrote there, or what it held before. -/
theorem State.rd_windowWrites (s : State) (ws : List WindowWrite) (a : Word) :
    (s.windowWrites ws).rd a =
      match ws.reverse.find? fun w => w.cell.addr = a with
      | some w => w.value
      | none => s.rd a := by
  induction ws using List.reverseRecOn with
  | nil => rfl
  | append_singleton ws w ih =>
    rw [State.windowWrites, List.foldl_append] at *
    by_cases h : w.cell.addr = a
    · subst h; simp [State.rd_wr_same _ _ _ w.cell.addr_mapped]
    · simpa [h, State.rd_wr_other _ _ (Ne.symm h)] using ih
/-- A program load leaves every address outside the program alone. -/
theorem State.rd_writeBytes_other (s : State) (a : Nat) (bs : List Byte) {b : Word} (ha : a + bs.length ≤ 65536)
    (h : b.toNat < a ∨ a + bs.length ≤ b.toNat) : (s.writeBytes a bs).rd b = s.rd b := by
  induction bs generalizing s a with
  | nil => rfl
  | cons v bs ih =>
    simp only [List.length_cons] at ha h
    rw [State.writeBytes, ih _ _ (by omega) (by omega), State.rd_wr_other]
    rintro rfl
    simp at h
    omega

/-- A program load puts each byte of the program in its place. -/
theorem State.rd_writeBytes_at (s : State) (a : Nat) (bs : List Byte) (ha : a + bs.length ≤ 65536)
    (hm : 0x1000 ≤ a) {k : Nat} {v : Byte} (h : bs[k]? = some v) :
    (s.writeBytes a bs).rd (BitVec.ofNat 16 (a + k)) = v := by
  induction bs generalizing s a k with
  | nil => simp at h
  | cons w bs ih =>
    simp only [List.length_cons] at ha
    cases k with
    | zero =>
      have hv : w = v := by simpa using h
      rw [State.writeBytes, State.rd_writeBytes_other _ _ _ (by omega) (.inl (by simp; omega)), Nat.add_zero,
        State.rd_wr_same, hv]
      rw [isMapped_iff]
      simp
      omega
    | succ k =>
      rw [State.writeBytes, show a + (k + 1) = a + 1 + k by omega]
      exact ih _ _ (by omega) (by omega) (by simpa using h)

/-! ## Results written to memory -/

/-- INC and DEC leave every address but the resolved one alone. -/
theorem State.rd_storeResult_other (s : State) (v : Byte) {b : Word} (h : b ≠ s.scratch.addrAbs) :
    (s.storeResult v).rd b = s.rd b := s.rd_wr_other v h

/-- A write-back leaves every address but the resolved one alone, and all of memory in the accumulator form. -/
theorem rd_writeBack_other (o : Operand) (v : Byte) (s : State) {b : Word}
    (h : o = .imp ∨ b ≠ s.scratch.addrAbs) : (writeBack o v s).rd b = s.rd b := by
  rcases h with rfl | h
  · rfl
  · cases o <;> first | rfl | exact s.rd_wr_other v h

theorem State.rd_shiftTo_other (s : State) (o : Operand) (v : Byte) (out : Bool) {b : Word}
    (h : o = .imp ∨ b ≠ s.scratch.addrAbs) : (s.shiftTo o v out).rd b = s.rd b := rd_writeBack_other o v _ h

/-! ## The frame of an operation -/

/-- An operation's outcome is a next state, and only this one. -/
theorem runOperation_next {op : Operation} {o : Operand} {f : State → State} {s t : State}
    (h : runOperation op o f s = .next t) : t = (f (resolve o s)).addCycles (pagePenalty op o s) := by
  injection h with h
  exact h.symm

theorem pagePenalty_le_one (op : Operation) (o : Operand) (s : State) : pagePenalty op o s ≤ 1 := by
  unfold pagePenalty
  split <;> decide

/-- Reading is not changed by what a resolver does. -/
@[simp] theorem resolve_rd (o : Operand) (s : State) (a : Word) : (resolve o s).rd a = s.rd a := rfl

@[simp] theorem State.addCycles_rd (s : State) (n : Nat) (a : Word) : (s.addCycles n).rd a = s.rd a := rfl

/-- The address a resolver leaves in `addr_abs`. -/
@[simp] theorem resolvedScratch_addrAbs (o : Operand) (s : State) :
    (resolvedScratch o s).addrAbs = resolvedAddr o s := by
  cases o <;> rfl

/-- Every arm of `exec` runs some operation in the common frame, with the instruction's own operation identifier and
operand form. -/
theorem exec_runs (i : Instr) (s : State) : ∃ f, exec i s = runOperation i.operation i.operand f s := by
  cases i <;>
    simp only [exec, execAdc, execSbc, execCmp, execCpx, execCpy, execInc, execDec, execInx, execIny, execDex,
    execDey, execAnd, execOra, execEor, execBit, execAsl, execLsr, execRol, execRor, execBcc, execBcs,
    execBeq, execBne, execBmi, execBpl, execBvc, execBvs, execPha, execPhp, execPla, execPlp, execLda,
    execLdx, execLdy, execSta, execStx, execSty, execTax, execTay, execTsx, execTxa, execTxs, execTya,
    execClc, execCld, execCli, execClv, execSec, execSed, execSei, execJmp, execJsr, execRts, execBrk,
    execRti, execNop, execIllegal] <;>
    exact ⟨_, rfl⟩

end Sys2Proof.Machine
end

