-- ==== Sys2Proof/Laws/Exec.lean ====
section
/-! SUPPORT. One equation per arm of `exec`: the operation it runs in the common frame (`runOperation`). A proof cites
these and `runOperation_next`, and unfolds neither `exec` nor a meaning. -/

namespace Sys2Proof.Machine

@[simp] theorem exec_adc (o : Operand) (s : State) :
    exec (.adc o) s = runOperation .adc o (fun t => t.addWithCarry (readOperand o t)) s := rfl

@[simp] theorem exec_sbc (o : Operand) (s : State) :
    exec (.sbc o) s = runOperation .sbc o (fun t => t.addWithCarry (~~~ readOperand o t)) s := rfl

@[simp] theorem exec_cmp (o : Operand) (s : State) :
    exec (.cmp o) s = runOperation .cmp o (fun t => { t with flags := t.flags.ofCompare t.a (readOperand o t), scratch := { t.scratch with temp := (t.a.toNat : Int) - ((readOperand o t).toNat : Int) } }) s := rfl

@[simp] theorem exec_cpx (o : Operand) (s : State) :
    exec (.cpx o) s = runOperation .cpx o (fun t => { t with flags := t.flags.ofCompare t.x (readOperand o t) }) s := rfl

@[simp] theorem exec_cpy (o : Operand) (s : State) :
    exec (.cpy o) s = runOperation .cpy o (fun t => { t with flags := t.flags.ofCompare t.y (readOperand o t) }) s := rfl

@[simp] theorem exec_inc (o : Operand) (s : State) :
    exec (.inc o) s = runOperation .inc o (fun t => t.storeResult (readOperand o t + 1)) s := rfl

@[simp] theorem exec_dec (o : Operand) (s : State) :
    exec (.dec o) s = runOperation .dec o (fun t => t.storeResult (readOperand o t - 1)) s := rfl

@[simp] theorem exec_inx (s : State) :
    exec .inx s = runOperation .inx .imp (fun t => t.setX (t.x + 1)) s := rfl

@[simp] theorem exec_iny (s : State) :
    exec .iny s = runOperation .iny .imp (fun t => t.setY (t.y + 1)) s := rfl

@[simp] theorem exec_dex (s : State) :
    exec .dex s = runOperation .dex .imp (fun t => t.setX (t.x - 1)) s := rfl

@[simp] theorem exec_dey (s : State) :
    exec .dey s = runOperation .dey .imp (fun t => t.setY (t.y - 1)) s := rfl

@[simp] theorem exec_and (o : Operand) (s : State) :
    exec (.and o) s = runOperation .and o (fun t => t.setA (t.a &&& readOperand o t)) s := rfl

@[simp] theorem exec_ora (o : Operand) (s : State) :
    exec (.ora o) s = runOperation .ora o (fun t => t.setA (t.a ||| readOperand o t)) s := rfl

@[simp] theorem exec_eor (o : Operand) (s : State) :
    exec (.eor o) s = runOperation .eor o (fun t => t.setA (t.a ^^^ readOperand o t)) s := rfl

@[simp] theorem exec_bit (o : Operand) (s : State) :
    exec (.bit o) s = runOperation .bit o (fun t => { t with flags := t.flags.ofBitTest t.a (readOperand o t) }) s := rfl

@[simp] theorem exec_asl (o : Operand) (s : State) :
    exec (.asl o) s = runOperation .asl o (fun t => t.shiftTo o (readOperand o t <<< 1) ((readOperand o t).getLsbD 7)) s := rfl

@[simp] theorem exec_lsr (o : Operand) (s : State) :
    exec (.lsr o) s = runOperation .lsr o (fun t => t.shiftTo o (readOperand o t >>> 1) ((readOperand o t).getLsbD 0)) s := rfl

@[simp] theorem exec_rol (o : Operand) (s : State) :
    exec (.rol o) s = runOperation .rol o (fun t => t.shiftTo o ((readOperand o t <<< 1) ||| carryBit t.flags.c) ((readOperand o t).getLsbD 7)) s := rfl

@[simp] theorem exec_ror (o : Operand) (s : State) :
    exec (.ror o) s = runOperation .ror o (fun t => t.shiftTo o ((carryBit t.flags.c <<< 7) ||| (readOperand o t >>> 1)) ((readOperand o t).getLsbD 0)) s := rfl

@[simp] theorem exec_bcc (rr : Byte) (s : State) :
    exec (.bcc rr) s = runOperation .bcc (.rel rr) (fun t => t.branch (!t.flags.c)) s := rfl

@[simp] theorem exec_bcs (rr : Byte) (s : State) :
    exec (.bcs rr) s = runOperation .bcs (.rel rr) (fun t => t.branch t.flags.c) s := rfl

@[simp] theorem exec_beq (rr : Byte) (s : State) :
    exec (.beq rr) s = runOperation .beq (.rel rr) (fun t => t.branch t.flags.z) s := rfl

@[simp] theorem exec_bne (rr : Byte) (s : State) :
    exec (.bne rr) s = runOperation .bne (.rel rr) (fun t => t.branch (!t.flags.z)) s := rfl

@[simp] theorem exec_bmi (rr : Byte) (s : State) :
    exec (.bmi rr) s = runOperation .bmi (.rel rr) (fun t => t.branch t.flags.n) s := rfl

@[simp] theorem exec_bpl (rr : Byte) (s : State) :
    exec (.bpl rr) s = runOperation .bpl (.rel rr) (fun t => t.branch (!t.flags.n)) s := rfl

@[simp] theorem exec_bvc (rr : Byte) (s : State) :
    exec (.bvc rr) s = runOperation .bvc (.rel rr) (fun t => t.branch (!t.flags.v)) s := rfl

@[simp] theorem exec_bvs (rr : Byte) (s : State) :
    exec (.bvs rr) s = runOperation .bvs (.rel rr) (fun t => t.branch t.flags.v) s := rfl

@[simp] theorem exec_pha (s : State) :
    exec .pha s = runOperation .pha .imp (fun t => t.push t.a) s := rfl

@[simp] theorem exec_php (s : State) :
    exec .php s = runOperation .php .imp (fun t => t.push (t.flags.pack t.cfg.flagLayout true)) s := rfl

@[simp] theorem exec_pla (s : State) :
    exec .pla s = runOperation .pla .imp State.pla s := rfl

@[simp] theorem exec_plp (s : State) :
    exec .plp s = runOperation .plp .imp (fun t => { t.pulled with flags := unpackFlags t.cfg.flagLayout t.pullByte }) s := rfl

@[simp] theorem exec_lda (o : Operand) (s : State) :
    exec (.lda o) s = runOperation .lda o (fun t => t.setA (readOperand o t)) s := rfl

@[simp] theorem exec_ldx (o : Operand) (s : State) :
    exec (.ldx o) s = runOperation .ldx o (fun t => t.setX (readOperand o t)) s := rfl

@[simp] theorem exec_ldy (o : Operand) (s : State) :
    exec (.ldy o) s = runOperation .ldy o (fun t => t.setY (readOperand o t)) s := rfl

@[simp] theorem exec_sta (o : Operand) (s : State) :
    exec (.sta o) s = runOperation .sta o (fun t => t.wr t.scratch.addrAbs t.a) s := rfl

@[simp] theorem exec_stx (o : Operand) (s : State) :
    exec (.stx o) s = runOperation .stx o (fun t => t.wr t.scratch.addrAbs t.x) s := rfl

@[simp] theorem exec_sty (o : Operand) (s : State) :
    exec (.sty o) s = runOperation .sty o (fun t => t.wr t.scratch.addrAbs t.y) s := rfl

@[simp] theorem exec_tax (s : State) :
    exec .tax s = runOperation .tax .imp (fun t => t.setX t.a) s := rfl

@[simp] theorem exec_tay (s : State) :
    exec .tay s = runOperation .tay .imp (fun t => t.setY t.a) s := rfl

@[simp] theorem exec_tsx (s : State) :
    exec .tsx s = runOperation .tsx .imp (fun t => t.setX t.sp) s := rfl

@[simp] theorem exec_txa (s : State) :
    exec .txa s = runOperation .txa .imp (fun t => t.setA t.x) s := rfl

@[simp] theorem exec_txs (s : State) :
    exec .txs s = runOperation .txs .imp (fun t => { t with sp := t.x }) s := rfl

@[simp] theorem exec_tya (s : State) :
    exec .tya s = runOperation .tya .imp (fun t => t.setA t.y) s := rfl

@[simp] theorem exec_clc (s : State) :
    exec .clc s = runOperation .clc .imp (fun t => { t with flags := { t.flags with c := false } }) s := rfl

@[simp] theorem exec_cld (s : State) :
    exec .cld s = runOperation .cld .imp (fun t => { t with flags := { t.flags with d := false } }) s := rfl

@[simp] theorem exec_cli (s : State) :
    exec .cli s = runOperation .cli .imp (fun t => { t with flags := { t.flags with i := false } }) s := rfl

@[simp] theorem exec_clv (s : State) :
    exec .clv s = runOperation .clv .imp (fun t => { t with flags := { t.flags with v := false } }) s := rfl

@[simp] theorem exec_sec (s : State) :
    exec .sec s = runOperation .sec .imp (fun t => { t with flags := { t.flags with c := true } }) s := rfl

@[simp] theorem exec_sed (s : State) :
    exec .sed s = runOperation .sed .imp (fun t => { t with flags := { t.flags with d := true } }) s := rfl

@[simp] theorem exec_sei (s : State) :
    exec .sei s = runOperation .sei .imp (fun t => { t with flags := { t.flags with i := true } }) s := rfl

@[simp] theorem exec_jmp (o : Operand) (s : State) :
    exec (.jmp o) s = runOperation .jmp o (fun t => { t with pc := t.scratch.addrAbs }) s := rfl

@[simp] theorem exec_jsr (target : Word) (s : State) :
    exec (.jsr target) s = runOperation .jsr (.abs target) (fun t => { t.pushWord (t.pc - 1) with pc := t.scratch.addrAbs }) s := rfl

@[simp] theorem exec_rts (s : State) :
    exec .rts s = runOperation .rts .imp (fun t => { t with pc := t.pullWord + 1, sp := t.sp + 2 }) s := rfl

@[simp] theorem exec_brk (s : State) :
    exec .brk s = runOperation .brk .imp State.takeBreak s := rfl

@[simp] theorem exec_rti (s : State) :
    exec .rti s = runOperation .rti .imp State.returnFromBreak s := rfl

@[simp] theorem exec_nop (s : State) :
    exec .nop s = runOperation .nop .imp (fun t => t) s := rfl

@[simp] theorem exec_illegal (op : Byte) (o : Operand) (s : State) :
    exec (.illegal op o) s = runOperation .illegal o (fun t => t) s := rfl

end Sys2Proof.Machine
end

