-- ==== Sys2Proof/Laws/PerInstr.lean ====
section
/-! SUPPORT. Statements made of every instruction, one lemma per constructor. -/

namespace Sys2Proof.Laws.EncodedLength

/-- The encoding of a well-formed instruction is one opcode byte and its mode's operand bytes (30_encoding.md R304). -/
def Statement (i : Instr) : Prop := i.wf = true → (encode i).length = 1 + i.mode.operandBytes

theorem adc (o : Operand) : Statement (.adc o) := by
  cases o <;> intro h <;> first | rfl | exact nomatch h
theorem sbc (o : Operand) : Statement (.sbc o) := by
  cases o <;> intro h <;> first | rfl | exact nomatch h
theorem cmp (o : Operand) : Statement (.cmp o) := by
  cases o <;> intro h <;> first | rfl | exact nomatch h
theorem cpx (o : Operand) : Statement (.cpx o) := by
  cases o <;> intro h <;> first | rfl | exact nomatch h
theorem cpy (o : Operand) : Statement (.cpy o) := by
  cases o <;> intro h <;> first | rfl | exact nomatch h
theorem inc (o : Operand) : Statement (.inc o) := by
  cases o <;> intro h <;> first | rfl | exact nomatch h
theorem dec (o : Operand) : Statement (.dec o) := by
  cases o <;> intro h <;> first | rfl | exact nomatch h
theorem inx : Statement (.inx) := fun _ => rfl
theorem iny : Statement (.iny) := fun _ => rfl
theorem dex : Statement (.dex) := fun _ => rfl
theorem dey : Statement (.dey) := fun _ => rfl
theorem and (o : Operand) : Statement (.and o) := by
  cases o <;> intro h <;> first | rfl | exact nomatch h
theorem ora (o : Operand) : Statement (.ora o) := by
  cases o <;> intro h <;> first | rfl | exact nomatch h
theorem eor (o : Operand) : Statement (.eor o) := by
  cases o <;> intro h <;> first | rfl | exact nomatch h
theorem bit (o : Operand) : Statement (.bit o) := by
  cases o <;> intro h <;> first | rfl | exact nomatch h
theorem asl (o : Operand) : Statement (.asl o) := by
  cases o <;> intro h <;> first | rfl | exact nomatch h
theorem lsr (o : Operand) : Statement (.lsr o) := by
  cases o <;> intro h <;> first | rfl | exact nomatch h
theorem rol (o : Operand) : Statement (.rol o) := by
  cases o <;> intro h <;> first | rfl | exact nomatch h
theorem ror (o : Operand) : Statement (.ror o) := by
  cases o <;> intro h <;> first | rfl | exact nomatch h
theorem bcc (rr : Byte) : Statement (.bcc rr) := fun _ => rfl
theorem bcs (rr : Byte) : Statement (.bcs rr) := fun _ => rfl
theorem beq (rr : Byte) : Statement (.beq rr) := fun _ => rfl
theorem bne (rr : Byte) : Statement (.bne rr) := fun _ => rfl
theorem bmi (rr : Byte) : Statement (.bmi rr) := fun _ => rfl
theorem bpl (rr : Byte) : Statement (.bpl rr) := fun _ => rfl
theorem bvc (rr : Byte) : Statement (.bvc rr) := fun _ => rfl
theorem bvs (rr : Byte) : Statement (.bvs rr) := fun _ => rfl
theorem pha : Statement (.pha) := fun _ => rfl
theorem php : Statement (.php) := fun _ => rfl
theorem pla : Statement (.pla) := fun _ => rfl
theorem plp : Statement (.plp) := fun _ => rfl
theorem lda (o : Operand) : Statement (.lda o) := by
  cases o <;> intro h <;> first | rfl | exact nomatch h
theorem ldx (o : Operand) : Statement (.ldx o) := by
  cases o <;> intro h <;> first | rfl | exact nomatch h
theorem ldy (o : Operand) : Statement (.ldy o) := by
  cases o <;> intro h <;> first | rfl | exact nomatch h
theorem sta (o : Operand) : Statement (.sta o) := by
  cases o <;> intro h <;> first | rfl | exact nomatch h
theorem stx (o : Operand) : Statement (.stx o) := by
  cases o <;> intro h <;> first | rfl | exact nomatch h
theorem sty (o : Operand) : Statement (.sty o) := by
  cases o <;> intro h <;> first | rfl | exact nomatch h
theorem tax : Statement (.tax) := fun _ => rfl
theorem tay : Statement (.tay) := fun _ => rfl
theorem tsx : Statement (.tsx) := fun _ => rfl
theorem txa : Statement (.txa) := fun _ => rfl
theorem txs : Statement (.txs) := fun _ => rfl
theorem tya : Statement (.tya) := fun _ => rfl
theorem clc : Statement (.clc) := fun _ => rfl
theorem cld : Statement (.cld) := fun _ => rfl
theorem cli : Statement (.cli) := fun _ => rfl
theorem clv : Statement (.clv) := fun _ => rfl
theorem sec : Statement (.sec) := fun _ => rfl
theorem sed : Statement (.sed) := fun _ => rfl
theorem sei : Statement (.sei) := fun _ => rfl
theorem jmp (o : Operand) : Statement (.jmp o) := by
  cases o <;> intro h <;> first | rfl | exact nomatch h
theorem jsr (target : Word) : Statement (.jsr target) := fun _ => rfl
theorem rts : Statement (.rts) := fun _ => rfl
theorem brk : Statement (.brk) := fun _ => rfl
theorem rti : Statement (.rti) := fun _ => rfl
theorem nop : Statement (.nop) := fun _ => rfl
theorem illegal (op : Byte) (o : Operand) : Statement (.illegal op o) := by
  cases o <;> intro _ <;> rfl

end Sys2Proof.Laws.EncodedLength
end

