-- ==== Sys2Proof/Laws/Run.lean ====
section
/-! SUPPORT. What `observed` can do, said once: it stops at the first state the end of the run names, it goes on past
every other one, and more fuel never changes what it answers. -/

namespace Sys2Proof

open Machine

@[simp] theorem EndOfRun.reached_ticks (n : Nat) (s : State) :
    (EndOfRun.ticks n).reached s = true ↔ s.phase = .running ∧ n = 0 := by simp [EndOfRun.reached]

@[simp] theorem EndOfRun.reached_halt (h : Word) (s : State) :
    (EndOfRun.halt h).reached s = true ↔ AtBoundary s ∧ s.pc = h := by simp [EndOfRun.reached]

/-- No end of a run lies before the reset that begins it (10_state.md R126). -/
theorem EndOfRun.running_of_reached {e : EndOfRun} {s : State} (h : e.reached s = true) : s.phase = .running := by
  cases e with
  | ticks n => exact ((reached_ticks n s).1 h).1
  | halt a => exact ((reached_halt a s).1 h).1.1

/-- A run that has reached its end is observed there. -/
theorem observed_of_reached {e : EndOfRun} {s : State} (h : e.reached s = true) (fuel : Nat) :
    observed fuel e s = some s := by
  cases fuel <;> simp [observed, h]

/-- A run that has not is observed from its next state. -/
theorem observed_step {e : EndOfRun} {s t : State} (h : e.reached s = false) (hs : step s = .next t) (fuel : Nat) :
    observed (fuel + 1) e s = observed fuel (e.afterAction s) t := by simp [observed, h, hs]

/-- Why a run is observed: it is at its end, or it goes on. -/
theorem observed_cases {fuel : Nat} {e : EndOfRun} {s u : State} (h : observed fuel e s = some u) :
    (e.reached s = true ∧ u = s) ∨
    (e.reached s = false ∧ ∃ k t, fuel = k + 1 ∧ step s = .next t ∧ observed k (e.afterAction s) t = some u) := by
  cases hr : e.reached s with
  | true => exact .inl ⟨rfl, (Option.some.inj ((observed_of_reached hr fuel).symm.trans h)).symm⟩
  | false =>
    refine .inr ⟨rfl, ?_⟩
    cases fuel with
    | zero => simp [observed, hr] at h
    | succ k =>
      cases hs : step s with
      | next t => exact ⟨k, t, rfl, rfl, (observed_step hr hs k).symm.trans h⟩
      | fault r => cases r
      | refused r => simp [observed, hr, hs] at h

/-- What is observed does not depend on the fuel. -/
theorem observed_mono {fuel : Nat} {e : EndOfRun} {s u : State} (h : observed fuel e s = some u) {more : Nat}
    (hm : fuel ≤ more) : observed more e s = some u := by
  induction fuel generalizing e s more with
  | zero =>
    rcases observed_cases h with ⟨hr, rfl⟩ | ⟨_, _, _, hk, _⟩
    · exact observed_of_reached hr more
    · cases hk
  | succ fuel ih =>
    rcases observed_cases h with ⟨hr, rfl⟩ | ⟨hr, k, t, hk, hs, ht⟩
    · exact observed_of_reached hr more
    · obtain rfl : fuel = k := by omega
      obtain ⟨m, rfl⟩ : ∃ m, more = m + 1 := ⟨more - 1, by omega⟩
      exact (observed_step hr hs m).trans (ih ht (by omega))

/-- A run is observed in one state at most. -/
theorem Observes.unique {s t u : State} {e : EndOfRun} (ht : Observes s e t) (hu : Observes s e u) : t = u := by
  obtain ⟨j, hj⟩ := ht
  obtain ⟨k, hk⟩ := hu
  exact Option.some.inj
    ((observed_mono hj (Nat.le_max_left j k)).symm.trans (observed_mono hk (Nat.le_max_right j k)))

/-- The first action of the host, and then the others. -/
theorem ticksAmong_succ (k : Nat) (s : State) :
    ticksAmong (k + 1) s.inputs = ticksAmong k s.inputs.tail + (if s.tickNext then 1 else 0) := by
  unfold State.tickNext
  rcases s.inputs with _ | ⟨_ | _ | _, rest⟩
  · cases k <;> rfl
  all_goals rfl

end Sys2Proof
end

