-- ==== Sys2Proof/Laws/Step.lean ====
section
/-! SUPPORT. What a step can do, said once: which tick it is, that the decoded instruction is the one that runs, and
that every arm of `exec` answers a next state, and how steps run on. -/

namespace Sys2Proof.Machine

/-- With no host action listed, taking the (empty) list's rest changes nothing. -/
theorem State.with_no_inputs {s : State} (h : s.inputs = []) : { s with inputs := [] } = s := by
  rw [← h]

/-- A step that is a tick is that bus tick. -/
theorem step_tick {s : State} {ws : List WindowWrite} {rest : List HostInput} (hp : s.phase = .running)
    (hi : s.inputs = .tick ws :: rest ∨ (s.inputs = [] ∧ ws = [] ∧ rest = [])) :
    step s = busTick ws { s with inputs := rest } := by
  rcases hi with hi | ⟨hi, rfl, rfl⟩
  · simp only [step, hostAction, hi, hostTick, hp]
  · rw [State.with_no_inputs hi]
    simp only [step, hostAction, hi, hostTick, hp]

/-- What the three bytes at `pc` decode to is the instruction the machine fetches. -/
theorem fetchInstr_of_decode {s : State} {i : Instr} {tail : List Byte}
    (h : decode s.cfg [s.rd s.pc, s.rd (s.pc + 1), s.rd (s.pc + 2)] = .ok (i, tail)) : s.fetchInstr = i := by
  rw [decode_three] at h
  injection h with h
  exact (Prod.mk.inj h).1

/-- Every arm of `exec` answers a next state. -/
theorem exec_next (i : Instr) (s : State) : ∃ t, exec i s = .next t := by
  obtain ⟨f, hf⟩ := exec_runs i s
  exact ⟨_, hf⟩

/-- A bus tick answers a next state: the executing one what the instruction gives, the others one cycle less. -/
theorem busTick_cases {ws : List WindowWrite} {s t : State} (h : busTick ws s = .next t) :
    (s.cycles = 0 ∧ ∃ u, exec s.fetchInstr s.fetched = .next u ∧ t = u.endTick ws) ∨
      (s.cycles ≠ 0 ∧ t = s.endTick ws) := by
  unfold busTick fetchExecute at h
  split at h
  · next hc =>
    obtain ⟨u, hu⟩ := exec_next s.fetchInstr s.fetched
    rw [hu] at h
    injection h with h
    exact .inl ⟨hc, u, hu, h.symm⟩
  · next hc =>
    injection h with h
    exact .inr ⟨hc, h.symm⟩

/-- A step that answers a next state is a bus tick, a reset or a load of what fits. -/
theorem step_cases {s t : State} (h : step s = .next t) :
    (∃ ws, s.phase = .running ∧ busTick ws { s with inputs := s.inputs.tail } = .next t) ∨
    (∃ rest, s.inputs = .reset :: rest ∧ t = { s with inputs := rest }.hostReset) ∨
    (∃ bytes rest, s.inputs = .load bytes :: rest ∧ s.phase = .constructed ∧ fitsBelowTop bytes.length = true ∧
      t = { s with inputs := rest }.writeBytes loadBase bytes) := by
  unfold step hostAction at h
  split at h
  · next hi =>
    unfold hostTick at h
    split at h
    · next hp => exact .inl ⟨[], hp, by rw [hi, List.tail_nil, State.with_no_inputs hi]; exact h⟩
    · cases h
  · next ws rest hi =>
    unfold hostTick at h
    split at h
    · next hp => exact .inl ⟨ws, hp, by rw [hi]; exact h⟩
    · cases h
  · next rest hi =>
    injection h with h
    exact .inr (.inl ⟨rest, hi, h.symm⟩)
  · next bytes rest hi =>
    unfold hostLoad at h
    split at h
    · cases h
    · next hp =>
      split at h
      · next hf =>
        injection h with h
        exact .inr (.inr ⟨bytes, rest, hi, hp, hf, h.symm⟩)
      · cases h

/-- No instruction changes the configuration, the phase or the host's actions, or takes cycles away. -/
theorem exec_keeps {i : Instr} {s t : State} (h : exec i s = .next t) :
    t.cfg = s.cfg ∧ t.phase = s.phase ∧ t.inputs = s.inputs ∧ s.cycles ≤ t.cycles := by
  cases i <;> (simp at h; have e := runOperation_next h; subst e; simp)
  all_goals exact Nat.le_add_right_of_le (State.le_branch_cycles (resolve _ s) _)

/-- What a program load leaves alone. -/
theorem State.writeBytes_keeps (s : State) (a : Nat) (bs : List Byte) :
    s.writeBytes a bs = { s with mem := (s.writeBytes a bs).mem } := by
  induction bs generalizing s a with
  | nil => rfl
  | cons b bs ih =>
    rw [State.writeBytes, ih]
    ext <;> simp

/-- A tick that executes nothing. -/
theorem step_idle {s : State} (hp : s.phase = .running) (hi : s.inputs = []) (hc : s.cycles ≠ 0) :
    step s = .next { s with cycles := s.cycles - 1 } := by
  rw [step_tick (ws := []) (rest := []) hp (.inr ⟨hi, rfl, rfl⟩), State.with_no_inputs hi, busTick, if_neg hc]
  rfl

/-- A tick that executes. -/
theorem step_executes {s t : State} (hp : s.phase = .running) (hi : s.inputs = []) (hc : s.cycles = 0)
    (h : exec s.fetchInstr s.fetched = .next t) : step s = .next { t with cycles := t.cycles - 1 } := by
  rw [step_tick (ws := []) (rest := []) hp (.inr ⟨hi, rfl, rfl⟩), State.with_no_inputs hi, busTick, if_pos hc,
    fetchExecute, h]
  rfl

/-- A run of several steps is one step and then the others. -/
theorem run_step {s t : State} (k : Nat) (h : step s = .next t) : core.run (k + 1) s = core.run k t := by
  have h' : core.step s = .next t := h
  simp only [Host.Core.run, h']

/-- A run of several steps that goes through starts with a step that does. -/
theorem run_succ_iff {s u : State} {k : Nat} :
    core.run (k + 1) s = .next u ↔ ∃ t, step s = .next t ∧ core.run k t = .next u := by
  refine ⟨fun h => ?_, fun ⟨t, hs, h⟩ => (run_step k hs).trans h⟩
  cases hs : step s with
  | next t => exact ⟨t, rfl, (run_step k hs).symm.trans h⟩
  | fault r => cases r
  | refused r =>
    have h' : core.step s = .refused r := hs
    simp [Host.Core.run, h'] at h

/-- Ticks that execute nothing only count down. -/
theorem run_idle {s : State} (hp : s.phase = .running) (hi : s.inputs = []) {k : Nat} (hk : k ≤ s.cycles) :
    core.run k s = .next { s with cycles := s.cycles - k } := by
  induction k generalizing s with
  | zero => rfl
  | succ k ih =>
    refine (run_step k (step_idle hp hi (by omega))).trans ((ih (s := { s with cycles := s.cycles - 1 }) hp hi ?_).trans ?_)
    · exact Nat.le_sub_one_of_lt hk
    · simp only [Nat.sub_sub, Nat.add_comm 1]

end Sys2Proof.Machine
end

