-- ==== Sys2Proof/Tests/Slice0.lean ====
section
/-! SUPPORT. The model's own tests. What a vector expects is taken from 95_test_vectors.md, what a word decodes to from
the opcode map of 30_encoding.md R312; each theorem names its source. The last part holds one witness for each
statement of Obligations.lean that has hypotheses. -/

namespace Sys2Proof.Tests

set_option Elab.async false

open Machine

/-! ## Small helpers -/

/-- The flags that are 1. -/
def flagsOf (l : List FlagName) : Flags :=
  ⟨l.contains .c, l.contains .z, l.contains .i, l.contains .d, l.contains .b, l.contains .v, l.contains .n,
    l.contains .u⟩

/-- An instruction boundary of a running machine with this memory: the start state of 95_test_vectors.md. -/
def boundary (pc : Word) (mem : List Host.Cell) : State := { State.reset with pc := pc, cycles := 0, mem := mem }

/-- The next state of an outcome, if it is one. -/
def next : Host.Outcome State Fault Refusal → Option State
  | .next t => some t
  | .fault _ => none
  | .refused _ => none

/-- Why an outcome refuses, if it does. -/
def refusal : Host.Outcome State Fault Refusal → Option Refusal
  | .next _ => none
  | .fault _ => none
  | .refused r => some r

/-- The state after one step. -/
def stepped (s : State) : Option State := next (step s)

/-- Whether a step answers a next state of which `p` holds. -/
def meets (s : State) (p : State → Bool) : Bool :=
  match step s with
  | .next t => p t
  | .fault _ => false
  | .refused _ => false

/-- What a list of bytes decodes to, if all of them are used. -/
def reads (bytes : List Byte) : Option Instr :=
  match decode Cfg.default bytes with
  | .ok (i, []) => some i
  | _ => none

/-! ## WellFormed: an ill-formed term for each check -/

/-- A store has no immediate form (30_encoding.md R312). -/
theorem test_wf_refuses_a_mode_the_mnemonic_lacks : (Instr.sta (.imm 0x01)).wf = false := by decide

/-- STX is indexed by Y, not by X (R312). -/
theorem test_wf_refuses_stx_zpx : (Instr.stx (.zpx 0x10)).wf = false := by decide

/-- JMP has no zero-page form (R312). -/
theorem test_wf_refuses_jmp_zero_page : (Instr.jmp (.zp0 0x10)).wf = false := by decide

/-- 0xEA is NOP's opcode, not an ILLEGAL one (R315). -/
theorem test_wf_refuses_an_illegal_with_a_documented_opcode : (Instr.illegal 0xEA .imp).wf = false := by decide

/-- Well-formed terms of the same mnemonics. -/
theorem test_wf_accepts :
    (Instr.sta (.zp0 0x01)).wf = true ∧ (Instr.stx (.zpy 0x10)).wf = true ∧ (Instr.jmp (.ind 0x30FF)).wf = true ∧
    (Instr.illegal 0x02 .imp).wf = true ∧ (Instr.illegal 0x02 (.abs 0x1234)).wf = true := by decide

/-! ## Decode: words written out bit by bit from R312, every constructor -/

theorem test_decode_arithmetic :
    [reads [0b01101001, 0x44],
      reads [0b11111101, 0xFF, 0x20],
      reads [0b11010001, 0x40],
      reads [0b11100100, 0x10],
      reads [0b11001100, 0x34, 0x12],
      reads [0b11110110, 0xF0],
      reads [0b11001110, 0x00, 0x04],
      reads [0b11101000],
      reads [0b11001000],
      reads [0b11001010],
      reads [0b10001000]] =
    [some (.adc (.imm 0x44)),
      some (.sbc (.abx 0x20FF)),
      some (.cmp (.izy 0x40)),
      some (.cpx (.zp0 0x10)),
      some (.cpy (.abs 0x1234)),
      some (.inc (.zpx 0xF0)),
      some (.dec (.abs 0x0400)),
      some (.inx),
      some (.iny),
      some (.dex),
      some (.dey)] := by decide +kernel

theorem test_decode_logic :
    [reads [0b00100001, 0xFE],
      reads [0b00011001, 0x00, 0x30],
      reads [0b01001001, 0xFF],
      reads [0b00100100, 0x80]] =
    [some (.and (.izx 0xFE)),
      some (.ora (.aby 0x3000)),
      some (.eor (.imm 0xFF)),
      some (.bit (.zp0 0x80))] := by decide +kernel

theorem test_decode_shift :
    [reads [0b00001010],
      reads [0b01000110, 0x10],
      reads [0b00111110, 0xFF, 0x20],
      reads [0b01101110, 0x34, 0x12]] =
    [some (.asl .imp),
      some (.lsr (.zp0 0x10)),
      some (.rol (.abx 0x20FF)),
      some (.ror (.abs 0x1234))] := by decide +kernel

theorem test_decode_branch :
    [reads [0b10010000, 0x10],
      reads [0b10110000, 0x80],
      reads [0b11110000, 0x7F],
      reads [0b11010000, 0xFB],
      reads [0b00110000, 0x01],
      reads [0b00010000, 0x02],
      reads [0b01010000, 0x03],
      reads [0b01110000, 0xFF]] =
    [some (.bcc 0x10),
      some (.bcs 0x80),
      some (.beq 0x7F),
      some (.bne 0xFB),
      some (.bmi 0x01),
      some (.bpl 0x02),
      some (.bvc 0x03),
      some (.bvs 0xFF)] := by decide +kernel

theorem test_decode_stack :
    [reads [0b01001000],
      reads [0b00001000],
      reads [0b01101000],
      reads [0b00101000]] =
    [some (.pha),
      some (.php),
      some (.pla),
      some (.plp)] := by decide +kernel

theorem test_decode_load_store_transfer :
    [reads [0b10110101, 0xFF],
      reads [0b10110110, 0xFF],
      reads [0b10111100, 0x00, 0x20],
      reads [0b10011001, 0x01, 0x04],
      reads [0b10010110, 0x20],
      reads [0b10000100, 0x15],
      reads [0b10101010],
      reads [0b10101000],
      reads [0b10111010],
      reads [0b10001010],
      reads [0b10011010],
      reads [0b10011000]] =
    [some (.lda (.zpx 0xFF)),
      some (.ldx (.zpy 0xFF)),
      some (.ldy (.abx 0x2000)),
      some (.sta (.aby 0x0401)),
      some (.stx (.zpy 0x20)),
      some (.sty (.zp0 0x15)),
      some (.tax),
      some (.tay),
      some (.tsx),
      some (.txa),
      some (.txs),
      some (.tya)] := by decide +kernel

theorem test_decode_flags :
    [reads [0b00011000],
      reads [0b11011000],
      reads [0b01011000],
      reads [0b10111000],
      reads [0b00111000],
      reads [0b11111000],
      reads [0b01111000]] =
    [some (.clc),
      some (.cld),
      some (.cli),
      some (.clv),
      some (.sec),
      some (.sed),
      some (.sei)] := by decide +kernel

theorem test_decode_jump_and_engine :
    [reads [0b01101100, 0xFF, 0x30],
      reads [0b01001100, 0x00, 0x30],
      reads [0b00100000, 0x10, 0x20],
      reads [0b01100000],
      reads [0b00000000],
      reads [0b01000000],
      reads [0b11101010],
      reads [0b11111111],
      reads [0b10000000]] =
    [some (.jmp (.ind 0x30FF)),
      some (.jmp (.abs 0x3000)),
      some (.jsr 0x2010),
      some (.rts),
      some (.brk),
      some (.rti),
      some (.nop),
      some (.illegal 0xFF .imp),
      some (.illegal 0x80 .imp)] := by decide +kernel

/-- Bytes that end too early are no instruction (R304). -/
theorem test_decode_truncated : reads [0x8D, 0x00] = none ∧ reads [0xA9] = none ∧ reads [] = none := by decide +kernel

/-- The table's numbering of a word: the first byte is bits 7..0. -/
theorem test_decodeTableWord :
    decodeTableWord 8 0x6C = some (.jmp (.ind 0x0000)) ∧ decodeTableWord 24 0x30FF6C = some (.jmp (.ind 0x30FF)) ∧
    decodeTableWord 8 0x02 = some (.illegal 0x02 .imp) := by decide +kernel

/-- An instruction placed in the reset state is the next step's. -/
theorem test_withFetchWord :
    (stepped (State.reset.withFetchWord 8 0xE8)).map (fun t => (t.pc, t.x)) = some (0x0001, 0x01) ∧
    (stepped (({ State.reset with pc := 0x01FE }).withFetchWord 16 0x80A9)).map (fun t => (t.pc, t.a)) =
      some (0x2002, 0x80) := by decide +kernel

/-! ## Resolvers (95_test_vectors.md section 2.1) -/

/-- A10, A12: indexing wraps at the top of memory and reports the crossing; no crossing inside a page. -/
theorem test_resolver_indexed :
    (resolvedAddr (.abx 0xFFFF) { boundary 0x2001 [] with x := 0x01 }, crossesPage (.abx 0xFFFF)
      { boundary 0x2001 [] with x := 0x01 }) = (0x0000, true) ∧
    (resolvedAddr (.aby 0x2000) { boundary 0x2001 [] with y := 0xFF }, crossesPage (.aby 0x2000)
      { boundary 0x2001 [] with y := 0xFF }) = (0x20FF, false) := by decide +kernel

/-- A15: a pointer at 0xFFFF takes its high byte from 0xFF00. -/
theorem test_resolver_indirect :
    resolvedAddr (.ind 0xFFFF) (boundary 0x2001 [(0x0000, 0x56), (0xFF00, 0x12), (0xFFFF, 0x34)]) = 0x1234 := by
  decide +kernel

/-- A7: an instruction that lies across the top of memory. -/
theorem test_operand_bytes_wrap :
    (stepped (boundary 0xFFFE [(0x0000, 0x12), (0x1234, 0x77), (0xFFFE, 0xAD), (0xFFFF, 0x34)])).map
      (fun t => (t.pc, t.a)) = some (0x0001, 0x77) := by decide +kernel

/-! ## Instructions: vectors of 95_test_vectors.md section 2 -/

/-- 95_test_vectors.md V42.1: ADC IMM, 2 ticks. -/
theorem test_adc_42_1 :
    meets { boundary 0x2000 [(0x2000, 0x69), (0x2001, 0x50)] with
      a := 0x50 }
      fun t => t.pc = 0x2002 ∧ t.a = 0xA0 ∧ t.flags = flagsOf [.n, .v] ∧ t.cycles = 1 := by decide

/-- 95_test_vectors.md V42.6: ADC ABX, 5 ticks. -/
theorem test_adc_42_6 :
    meets { boundary 0x2000 [(0x2000, 0x7D), (0x2001, 0xFF), (0x2002, 0x20), (0x2100, 0x01)] with
      a := 0x01, x := 0x01 }
      fun t => t.pc = 0x2003 ∧ t.a = 0x02 ∧ t.flags = flagsOf [] ∧ t.cycles = 4 := by decide

/-- 95_test_vectors.md V42.9: SBC IMM, 2 ticks. -/
theorem test_sbc_42_9 :
    meets { boundary 0x2000 [(0x2000, 0xE9), (0x2001, 0xB0)] with
      a := 0x50, flags := flagsOf [.c] }
      fun t => t.pc = 0x2002 ∧ t.a = 0xA0 ∧ t.flags = flagsOf [.n, .v] ∧ t.cycles = 1 := by decide

/-- 95_test_vectors.md V42.10: SBC IMM, 2 ticks. -/
theorem test_sbc_42_10 :
    meets { boundary 0x2000 [(0x2000, 0xE9)] with
      a := 0x00 }
      fun t => t.pc = 0x2002 ∧ t.a = 0xFF ∧ t.flags = flagsOf [.n] ∧ t.cycles = 1 := by decide

/-- 95_test_vectors.md V42.13: CMP IMM, 2 ticks. -/
theorem test_cmp_42_13 :
    meets { boundary 0x2000 [(0x2000, 0xC9), (0x2001, 0x20)] with
      a := 0x10 }
      fun t => t.pc = 0x2002 ∧ t.flags = flagsOf [.n] ∧ t.cycles = 1 := by decide

/-- 95_test_vectors.md V42.15: CMP IMM, 2 ticks. -/
theorem test_cmp_42_15 :
    meets { boundary 0x2000 [(0x2000, 0xC9), (0x2001, 0x80)] with
      a := 0x00 }
      fun t => t.pc = 0x2002 ∧ t.flags = flagsOf [.n] ∧ t.cycles = 1 := by decide

/-- 95_test_vectors.md V42.16: CPX IMM, 2 ticks. -/
theorem test_cpx_42_16 :
    meets { boundary 0x2000 [(0x2000, 0xE0), (0x2001, 0xFF)] with
      x := 0xFF }
      fun t => t.pc = 0x2002 ∧ t.flags = flagsOf [.z, .c] ∧ t.cycles = 1 := by decide

/-- 95_test_vectors.md V42.17: CPY IMM, 2 ticks. -/
theorem test_cpy_42_17 :
    meets { boundary 0x2000 [(0x2000, 0xC0), (0x2001, 0x01)] with
      y := 0x00 }
      fun t => t.pc = 0x2002 ∧ t.flags = flagsOf [.n] ∧ t.cycles = 1 := by decide

/-- 95_test_vectors.md V42.20: INC ABS, 6 ticks. -/
theorem test_inc_42_20 :
    meets (boundary 0x2000 [(0x2000, 0xEE), (0x2002, 0x03)])
      fun t => t.pc = 0x2003 ∧ t.flags = flagsOf [] ∧ t.mem.length = 2 ∧ t.cycles = 5 := by decide

/-- 95_test_vectors.md V42.21: INC ABX, 7 ticks. -/
theorem test_inc_42_21 :
    meets { boundary 0x2000 [(0x2000, 0xFE), (0x2001, 0xFF), (0x2002, 0x20), (0x2100, 0x7F)] with
      x := 0x01 }
      fun t => t.pc = 0x2003 ∧ t.flags = flagsOf [.n] ∧ t.rd 0x2100 = 0x80 ∧ t.cycles = 6 := by decide

/-- 95_test_vectors.md V42.19: DEC ZP0, 5 ticks. -/
theorem test_dec_42_19 :
    meets (boundary 0x2000 [(0x2000, 0xC6), (0x2001, 0x10)])
      fun t => t.pc = 0x2002 ∧ t.flags = flagsOf [.n] ∧ t.rd 0x0010 = 0xFF ∧ t.cycles = 4 := by decide

/-- 95_test_vectors.md V42.22: INX IMP, 2 ticks. -/
theorem test_inx_42_22 :
    meets { boundary 0x2000 [(0x2000, 0xE8)] with
      x := 0xFF }
      fun t => t.pc = 0x2001 ∧ t.x = 0x00 ∧ t.flags = flagsOf [.z] ∧ t.cycles = 1 := by decide

/-- 95_test_vectors.md V42.24: INY IMP, 2 ticks. -/
theorem test_iny_42_24 :
    meets { boundary 0x2000 [(0x2000, 0xC8)] with
      y := 0x7F }
      fun t => t.pc = 0x2001 ∧ t.y = 0x80 ∧ t.flags = flagsOf [.n] ∧ t.cycles = 1 := by decide

/-- 95_test_vectors.md V42.23: DEX IMP, 2 ticks. -/
theorem test_dex_42_23 :
    meets { boundary 0x2000 [(0x2000, 0xCA)] with
      x := 0x00 }
      fun t => t.pc = 0x2001 ∧ t.x = 0xFF ∧ t.flags = flagsOf [.n] ∧ t.cycles = 1 := by decide

/-- 95_test_vectors.md V42.25: DEY IMP, 2 ticks. -/
theorem test_dey_42_25 :
    meets { boundary 0x2000 [(0x2000, 0x88)] with
      y := 0x01 }
      fun t => t.pc = 0x2001 ∧ t.y = 0x00 ∧ t.flags = flagsOf [.z] ∧ t.cycles = 1 := by decide

/-- 95_test_vectors.md V43.7: AND IZY, 6 ticks. -/
theorem test_and_43_7 :
    meets { boundary 0x2000 [(0x0040, 0xF8), (0x0041, 0x20), (0x2000, 0x31), (0x2001, 0x40), (0x2108, 0x3C)] with
      a := 0xFF, y := 0x10 }
      fun t => t.pc = 0x2002 ∧ t.a = 0x3C ∧ t.flags = flagsOf [] ∧ t.cycles = 5 := by decide

/-- 95_test_vectors.md V43.2: ORA IMM, 2 ticks. -/
theorem test_ora_43_2 :
    meets { boundary 0x2000 [(0x2000, 0x09), (0x2001, 0x80)] with
      a := 0x01 }
      fun t => t.pc = 0x2002 ∧ t.a = 0x81 ∧ t.flags = flagsOf [.n] ∧ t.cycles = 1 := by decide

/-- 95_test_vectors.md V43.3: EOR IMM, 2 ticks. -/
theorem test_eor_43_3 :
    meets { boundary 0x2000 [(0x2000, 0x49), (0x2001, 0xFF)] with
      a := 0xFF }
      fun t => t.pc = 0x2002 ∧ t.a = 0x00 ∧ t.flags = flagsOf [.z] ∧ t.cycles = 1 := by decide

/-- 95_test_vectors.md V43.4: BIT ZP0, 3 ticks. -/
theorem test_bit_43_4 :
    meets { boundary 0x2000 [(0x0010, 0xC0), (0x2000, 0x24), (0x2001, 0x10)] with
      a := 0x01 }
      fun t => t.pc = 0x2002 ∧ t.flags = flagsOf [.n, .v, .z] ∧ t.cycles = 2 := by decide

/-- 95_test_vectors.md V43.5: BIT ABS, 4 ticks. -/
theorem test_bit_43_5 :
    meets { boundary 0x2000 [(0x2000, 0x2C), (0x2002, 0x02)] with
      a := 0xFF, flags := flagsOf [.n, .v] }
      fun t => t.pc = 0x2003 ∧ t.flags = flagsOf [.z] ∧ t.cycles = 3 := by decide

/-- 95_test_vectors.md V44.1: ASL IMP, 2 ticks. -/
theorem test_asl_44_1 :
    meets { boundary 0x2000 [(0x2000, 0x0A)] with
      a := 0x80 }
      fun t => t.pc = 0x2001 ∧ t.a = 0x00 ∧ t.flags = flagsOf [.z, .c] ∧ t.cycles = 1 := by decide

/-- 95_test_vectors.md V44.7: ASL ABX, 7 ticks. -/
theorem test_asl_44_7 :
    meets { boundary 0x2000 [(0x2000, 0x1E), (0x2001, 0xFF), (0x2002, 0x20), (0x2100, 0x41)] with
      x := 0x01 }
      fun t => t.pc = 0x2003 ∧ t.flags = flagsOf [.n] ∧ t.rd 0x2100 = 0x82 ∧ t.cycles = 6 := by decide

/-- 95_test_vectors.md V44.9: LSR ZP0, 5 ticks. -/
theorem test_lsr_44_9 :
    meets (boundary 0x2000 [(0x0010, 0x03), (0x2000, 0x46), (0x2001, 0x10)])
      fun t => t.pc = 0x2002 ∧ t.flags = flagsOf [.c] ∧ t.rd 0x0010 = 0x01 ∧ t.cycles = 4 := by decide

/-- 95_test_vectors.md V44.10: LSR IMP, 2 ticks. -/
theorem test_lsr_44_10 :
    meets { boundary 0x2000 [(0x2000, 0x4A)] with
      a := 0xFF, flags := flagsOf [.n] }
      fun t => t.pc = 0x2001 ∧ t.a = 0x7F ∧ t.flags = flagsOf [.c] ∧ t.cycles = 1 := by decide

/-- 95_test_vectors.md V44.3: ROL IMP, 2 ticks. -/
theorem test_rol_44_3 :
    meets { boundary 0x2000 [(0x2000, 0x2A)] with
      a := 0x80 }
      fun t => t.pc = 0x2001 ∧ t.a = 0x00 ∧ t.flags = flagsOf [.z, .c] ∧ t.cycles = 1 := by decide

/-- 95_test_vectors.md V44.4: ROL IMP, 2 ticks. -/
theorem test_rol_44_4 :
    meets { boundary 0x2000 [(0x2000, 0x2A)] with
      a := 0x40, flags := flagsOf [.c] }
      fun t => t.pc = 0x2001 ∧ t.a = 0x81 ∧ t.flags = flagsOf [.n] ∧ t.cycles = 1 := by decide

/-- 95_test_vectors.md V44.5: ROR IMP, 2 ticks. -/
theorem test_ror_44_5 :
    meets { boundary 0x2000 [(0x2000, 0x6A)] with
      a := 0x01 }
      fun t => t.pc = 0x2001 ∧ t.a = 0x00 ∧ t.flags = flagsOf [.z, .c] ∧ t.cycles = 1 := by decide

/-- 95_test_vectors.md V44.6: ROR IMP, 2 ticks. -/
theorem test_ror_44_6 :
    meets { boundary 0x2000 [(0x2000, 0x6A)] with
      a := 0x00, flags := flagsOf [.c] }
      fun t => t.pc = 0x2001 ∧ t.a = 0x80 ∧ t.flags = flagsOf [.n] ∧ t.cycles = 1 := by decide

/-- 95_test_vectors.md V45.6: BCC REL, 3 ticks. -/
theorem test_bcc_45_6 :
    meets (boundary 0x2000 [(0x2000, 0x90), (0x2001, 0x10)])
      fun t => t.pc = 0x2012 ∧ t.flags = flagsOf [] ∧ t.cycles = 2 := by decide

/-- 95_test_vectors.md V45.7: BCS REL, 3 ticks. -/
theorem test_bcs_45_7 :
    meets { boundary 0x2000 [(0x2000, 0xB0), (0x2001, 0x10)] with
      flags := flagsOf [.c] }
      fun t => t.pc = 0x2012 ∧ t.flags = flagsOf [.c] ∧ t.cycles = 2 := by decide

/-- 95_test_vectors.md V45.14: BEQ REL, 4 ticks. -/
theorem test_beq_45_14 :
    meets { boundary 0xFFF0 [(0xFFF0, 0xF0), (0xFFF1, 0x7F)] with
      flags := flagsOf [.z] }
      fun t => t.pc = 0x0071 ∧ t.flags = flagsOf [.z] ∧ t.cycles = 3 := by decide

/-- 95_test_vectors.md V45.16: BNE REL, 4 ticks. -/
theorem test_bne_45_16 :
    meets (boundary 0x2000 [(0x2000, 0xD0), (0x2001, 0x80)])
      fun t => t.pc = 0x1F82 ∧ t.flags = flagsOf [] ∧ t.cycles = 3 := by decide

/-- 95_test_vectors.md V45.18: BNE REL, 3 ticks. -/
theorem test_bne_45_18 :
    meets (boundary 0x20FE [(0x20FE, 0xD0)])
      fun t => t.pc = 0x2100 ∧ t.flags = flagsOf [] ∧ t.cycles = 2 := by decide

/-- 95_test_vectors.md V45.9: BMI REL, 3 ticks. -/
theorem test_bmi_45_9 :
    meets { boundary 0x2000 [(0x2000, 0x30), (0x2001, 0x10)] with
      flags := flagsOf [.n] }
      fun t => t.pc = 0x2012 ∧ t.flags = flagsOf [.n] ∧ t.cycles = 2 := by decide

/-- 95_test_vectors.md V45.10: BPL REL, 3 ticks. -/
theorem test_bpl_45_10 :
    meets (boundary 0x2000 [(0x2000, 0x10), (0x2001, 0x10)])
      fun t => t.pc = 0x2012 ∧ t.flags = flagsOf [] ∧ t.cycles = 2 := by decide

/-- 95_test_vectors.md V45.11: BVC REL, 3 ticks. -/
theorem test_bvc_45_11 :
    meets (boundary 0x2000 [(0x2000, 0x50), (0x2001, 0x10)])
      fun t => t.pc = 0x2012 ∧ t.flags = flagsOf [] ∧ t.cycles = 2 := by decide

/-- 95_test_vectors.md V45.12: BVS REL, 3 ticks. -/
theorem test_bvs_45_12 :
    meets { boundary 0x2000 [(0x2000, 0x70), (0x2001, 0x10)] with
      flags := flagsOf [.v] }
      fun t => t.pc = 0x2012 ∧ t.flags = flagsOf [.v] ∧ t.cycles = 2 := by decide

/-- 95_test_vectors.md V45.13: BVS REL, 2 ticks. -/
theorem test_bvs_45_13 :
    meets (boundary 0x2000 [(0x2000, 0x70), (0x2001, 0x10)])
      fun t => t.pc = 0x2002 ∧ t.flags = flagsOf [] ∧ t.cycles = 1 := by decide

/-- 95_test_vectors.md V46.2: PHA IMP, 3 ticks. -/
theorem test_pha_46_2 :
    meets { boundary 0x2000 [(0x2000, 0x48)] with
      a := 0x42, sp := 0x00 }
      fun t => t.pc = 0x2001 ∧ t.sp = 0xFF ∧ t.flags = flagsOf [] ∧ t.rd 0x0100 = 0x42 ∧ t.cycles = 2 := by decide

/-- 95_test_vectors.md V46.4: PHP IMP, 3 ticks. -/
theorem test_php_46_4 :
    meets { boundary 0x2000 [(0x2000, 0x08)] with
      flags := flagsOf [.n, .v, .d, .i, .z, .c] }
      fun t => t.pc = 0x2001 ∧ t.sp = 0xFC ∧ t.flags = flagsOf [.n, .v, .d, .i, .z, .c] ∧ t.rd 0x01FD = 0xFF ∧ t.cycles = 2 := by decide

/-- 95_test_vectors.md V46.5: PHP IMP, 3 ticks. -/
theorem test_php_46_5 :
    meets { boundary 0x2000 [(0x2000, 0x08)] with
      flags := flagsOf [.n], cfg := { Cfg.default with flagLayout := .listing } }
      fun t => t.pc = 0x2001 ∧ t.sp = 0xFC ∧ t.flags = flagsOf [.n] ∧ t.rd 0x01FD = 0xD0 ∧ t.cycles = 2 := by decide

/-- 95_test_vectors.md V46.8: PLA IMP, 4 ticks. -/
theorem test_pla_46_8 :
    meets { boundary 0x2000 [(0x01FD, 0x80), (0x2000, 0x68)] with
      sp := 0xFC, a := 0x11 }
      fun t => t.pc = 0x2001 ∧ t.a = 0x80 ∧ t.sp = 0xFD ∧ t.flags = flagsOf [.n] ∧ t.cycles = 3 := by decide

/-- 95_test_vectors.md V46.10: PLP IMP, 4 ticks. -/
theorem test_plp_46_10 :
    meets { boundary 0x2000 [(0x01FD, 0xFF), (0x2000, 0x28)] with
      sp := 0xFC }
      fun t => t.pc = 0x2001 ∧ t.sp = 0xFD ∧ t.flags = flagsOf [.n, .v, .u, .b, .d, .i, .z, .c] ∧ t.cycles = 3 := by decide

/-- 95_test_vectors.md V46.12: PLP IMP, 4 ticks. -/
theorem test_plp_46_12 :
    meets { boundary 0x2000 [(0x01FD, 0x80), (0x2000, 0x28)] with
      sp := 0xFC, cfg := { Cfg.default with flagLayout := .listing } }
      fun t => t.pc = 0x2001 ∧ t.sp = 0xFD ∧ t.flags = flagsOf [.u] ∧ t.cycles = 3 := by decide

/-- 95_test_vectors.md V47.14: LDA ABX, 5 ticks. -/
theorem test_lda_47_14 :
    meets { boundary 0x2000 [(0x0000, 0x66), (0x2000, 0xBD), (0x2001, 0xFF), (0x2002, 0xFF)] with
      x := 0x01 }
      fun t => t.pc = 0x2003 ∧ t.a = 0x66 ∧ t.flags = flagsOf [] ∧ t.cycles = 4 := by decide

/-- 95_test_vectors.md V47.11: LDA IZX, 6 ticks. -/
theorem test_lda_47_11 :
    meets { boundary 0x2000 [(0x0000, 0x12), (0x00FF, 0x34), (0x1234, 0x56), (0x2000, 0xA1), (0x2001, 0xFE)] with
      x := 0x01 }
      fun t => t.pc = 0x2002 ∧ t.a = 0x56 ∧ t.flags = flagsOf [] ∧ t.cycles = 5 := by decide

/-- 95_test_vectors.md V47.10: LDX ZPY, 4 ticks. -/
theorem test_ldx_47_10 :
    meets { boundary 0x2000 [(0x0000, 0x42), (0x2000, 0xB6), (0x2001, 0xFF)] with
      y := 0x01 }
      fun t => t.pc = 0x2002 ∧ t.x = 0x42 ∧ t.flags = flagsOf [] ∧ t.cycles = 3 := by decide

/-- 95_test_vectors.md V47.7: LDY IMM, 2 ticks. -/
theorem test_ldy_47_7 :
    meets (boundary 0x2000 [(0x2000, 0xA0), (0x2001, 0x80)])
      fun t => t.pc = 0x2002 ∧ t.y = 0x80 ∧ t.flags = flagsOf [.n] ∧ t.cycles = 1 := by decide

/-- 95_test_vectors.md V47.27: STA IZY, 6 ticks. -/
theorem test_sta_47_27 :
    meets { boundary 0x2000 [(0x0040, 0xFF), (0x0041, 0x20), (0x2000, 0x91), (0x2001, 0x40)] with
      a := 0x21, y := 0x01 }
      fun t => t.pc = 0x2002 ∧ t.flags = flagsOf [] ∧ t.rd 0x2100 = 0x21 ∧ t.cycles = 5 := by decide

/-- 95_test_vectors.md V47.16: STA ABS, 4 ticks. -/
theorem test_sta_47_16 :
    meets { boundary 0x2000 [(0x2000, 0x8D), (0x2002, 0x02)] with
      a := 0x21 }
      fun t => t.pc = 0x2003 ∧ t.flags = flagsOf [] ∧ t.rd 0x0200 = 0x00 ∧ t.cycles = 3 := by decide

/-- 95_test_vectors.md V47.19: STX ZPY, 4 ticks. -/
theorem test_stx_47_19 :
    meets { boundary 0x2000 [(0x2000, 0x96), (0x2001, 0xFF)] with
      x := 0x21, y := 0x02 }
      fun t => t.pc = 0x2002 ∧ t.flags = flagsOf [] ∧ t.rd 0x0001 = 0x21 ∧ t.cycles = 3 := by decide

/-- 95_test_vectors.md V47.20: STY ZPX, 4 ticks. -/
theorem test_sty_47_20 :
    meets { boundary 0x2000 [(0x2000, 0x94), (0x2001, 0x10)] with
      y := 0x21, x := 0x05 }
      fun t => t.pc = 0x2002 ∧ t.flags = flagsOf [] ∧ t.rd 0x0015 = 0x21 ∧ t.cycles = 3 := by decide

/-- 95_test_vectors.md V47.21: TAX IMP, 2 ticks. -/
theorem test_tax_47_21 :
    meets { boundary 0x2000 [(0x2000, 0xAA)] with
      a := 0x00, x := 0x05 }
      fun t => t.pc = 0x2001 ∧ t.x = 0x00 ∧ t.flags = flagsOf [.z] ∧ t.cycles = 1 := by decide

/-- 95_test_vectors.md V47.22: TAY IMP, 2 ticks. -/
theorem test_tay_47_22 :
    meets { boundary 0x2000 [(0x2000, 0xA8)] with
      a := 0x80 }
      fun t => t.pc = 0x2001 ∧ t.y = 0x80 ∧ t.flags = flagsOf [.n] ∧ t.cycles = 1 := by decide

/-- 95_test_vectors.md V47.23: TSX IMP, 2 ticks. -/
theorem test_tsx_47_23 :
    meets (boundary 0x2000 [(0x2000, 0xBA)])
      fun t => t.pc = 0x2001 ∧ t.x = 0xFD ∧ t.flags = flagsOf [.n] ∧ t.cycles = 1 := by decide

/-- 95_test_vectors.md V47.24: TXA IMP, 2 ticks. -/
theorem test_txa_47_24 :
    meets { boundary 0x2000 [(0x2000, 0x8A)] with
      x := 0x7F, a := 0x80, flags := flagsOf [.n] }
      fun t => t.pc = 0x2001 ∧ t.a = 0x7F ∧ t.flags = flagsOf [] ∧ t.cycles = 1 := by decide

/-- 95_test_vectors.md V47.25: TXS IMP, 2 ticks. -/
theorem test_txs_47_25 :
    meets { boundary 0x2000 [(0x2000, 0x9A)] with
      x := 0x00, flags := flagsOf [.z] }
      fun t => t.pc = 0x2001 ∧ t.sp = 0x00 ∧ t.flags = flagsOf [.z] ∧ t.cycles = 1 := by decide

/-- 95_test_vectors.md V47.26: TYA IMP, 2 ticks. -/
theorem test_tya_47_26 :
    meets { boundary 0x2000 [(0x2000, 0x98)] with
      y := 0x00, a := 0x01 }
      fun t => t.pc = 0x2001 ∧ t.a = 0x00 ∧ t.flags = flagsOf [.z] ∧ t.cycles = 1 := by decide

/-- 95_test_vectors.md V48.1: CLC IMP, 2 ticks. -/
theorem test_clc_48_1 :
    meets { boundary 0x2000 [(0x2000, 0x18)] with
      flags := flagsOf [.c] }
      fun t => t.pc = 0x2001 ∧ t.flags = flagsOf [] ∧ t.cycles = 1 := by decide

/-- 95_test_vectors.md V48.3: CLD IMP, 2 ticks. -/
theorem test_cld_48_3 :
    meets { boundary 0x2000 [(0x2000, 0xD8)] with
      flags := flagsOf [.d] }
      fun t => t.pc = 0x2001 ∧ t.flags = flagsOf [] ∧ t.cycles = 1 := by decide

/-- 95_test_vectors.md V48.5: CLI IMP, 2 ticks. -/
theorem test_cli_48_5 :
    meets { boundary 0x2000 [(0x2000, 0x58)] with
      flags := flagsOf [.i] }
      fun t => t.pc = 0x2001 ∧ t.flags = flagsOf [] ∧ t.cycles = 1 := by decide

/-- 95_test_vectors.md V48.7: CLV IMP, 2 ticks. -/
theorem test_clv_48_7 :
    meets { boundary 0x2000 [(0x2000, 0xB8)] with
      flags := flagsOf [.v] }
      fun t => t.pc = 0x2001 ∧ t.flags = flagsOf [] ∧ t.cycles = 1 := by decide

/-- 95_test_vectors.md V48.2: SEC IMP, 2 ticks. -/
theorem test_sec_48_2 :
    meets (boundary 0x2000 [(0x2000, 0x38)])
      fun t => t.pc = 0x2001 ∧ t.flags = flagsOf [.c] ∧ t.cycles = 1 := by decide

/-- 95_test_vectors.md V48.4: SED IMP, 2 ticks. -/
theorem test_sed_48_4 :
    meets (boundary 0x2000 [(0x2000, 0xF8)])
      fun t => t.pc = 0x2001 ∧ t.flags = flagsOf [.d] ∧ t.cycles = 1 := by decide

/-- 95_test_vectors.md V48.6: SEI IMP, 2 ticks. -/
theorem test_sei_48_6 :
    meets (boundary 0x2000 [(0x2000, 0x78)])
      fun t => t.pc = 0x2001 ∧ t.flags = flagsOf [.i] ∧ t.cycles = 1 := by decide

/-- 95_test_vectors.md V49.1: JMP ABS, 3 ticks. -/
theorem test_jmp_49_1 :
    meets (boundary 0x2000 [(0x2000, 0x4C), (0x2002, 0x30)])
      fun t => t.pc = 0x3000 ∧ t.flags = flagsOf [] ∧ t.cycles = 2 := by decide

/-- 95_test_vectors.md V49.3: JMP IND, 5 ticks. -/
theorem test_jmp_49_3 :
    meets (boundary 0x2000 [(0x2000, 0x6C), (0x2001, 0xFF), (0x2002, 0x30), (0x3000, 0x12), (0x30FF, 0x34), (0x3100, 0x56)])
      fun t => t.pc = 0x1234 ∧ t.flags = flagsOf [] ∧ t.cycles = 4 := by decide

/-- 95_test_vectors.md V49.12: JSR ABS, 6 ticks. -/
theorem test_jsr_49_12 :
    meets { boundary 0x2000 [(0x2000, 0x20), (0x2002, 0x30)] with
      sp := 0x00 }
      fun t => t.pc = 0x3000 ∧ t.sp = 0xFE ∧ t.flags = flagsOf [] ∧ t.rd 0x0100 = 0x20 ∧ t.rd 0x01FF = 0x02 ∧ t.cycles = 5 := by decide

/-- 95_test_vectors.md V49.6: RTS IMP, 6 ticks. -/
theorem test_rts_49_6 :
    meets { boundary 0x2000 [(0x01FC, 0xFF), (0x01FD, 0xFF), (0x2000, 0x60)] with
      sp := 0xFB }
      fun t => t.pc = 0x0000 ∧ t.sp = 0xFD ∧ t.flags = flagsOf [] ∧ t.cycles = 5 := by decide

/-- 95_test_vectors.md V49.9: BRK IMP, 7 ticks. -/
theorem test_brk_49_9 :
    meets { boundary 0x2000 [(0xFFFF, 0x40)] with
      sp := 0x01, flags := flagsOf [.i] }
      fun t => t.pc = 0x4000 ∧ t.sp = 0xFE ∧ t.flags = flagsOf [.i] ∧ t.rd 0x0100 = 0x02 ∧ t.rd 0x0101 = 0x20 ∧ t.rd 0x01FF = 0x34 ∧ t.cycles = 6 := by decide

/-- 95_test_vectors.md V49.8: BRK IMP, 7 ticks. -/
theorem test_brk_49_8 :
    meets { boundary 0x2000 [(0xFFFF, 0x40)] with
      cfg := { Cfg.default with brkVectorSwapped := true } }
      fun t => t.pc = 0x0040 ∧ t.sp = 0xFA ∧ t.flags = flagsOf [.i] ∧ t.rd 0x01FB = 0x30 ∧ t.rd 0x01FC = 0x02 ∧ t.rd 0x01FD = 0x20 ∧ t.cycles = 6 := by decide

/-- 95_test_vectors.md V49.11: RTI IMP, 6 ticks. -/
theorem test_rti_49_11 :
    meets { boundary 0x2000 [(0x01FB, 0xC3), (0x01FC, 0x02), (0x01FD, 0x20), (0x2000, 0x40)] with
      sp := 0xFA }
      fun t => t.pc = 0x2002 ∧ t.sp = 0xFD ∧ t.flags = flagsOf [.n, .v, .z, .c] ∧ t.cycles = 5 := by decide

/-- 95_test_vectors.md V40.1: NOP IMP, 2 ticks. -/
theorem test_nop_40_1 :
    meets (boundary 0x2000 [(0x2000, 0xEA)])
      fun t => t.pc = 0x2001 ∧ t.flags = flagsOf [] ∧ t.cycles = 1 := by decide

/-- 95_test_vectors.md V40.3: ILLEGAL IMP, 2 ticks. -/
theorem test_illegal_40_3 :
    meets (boundary 0x2000 [(0x2000, 0xFF)])
      fun t => t.pc = 0x2001 ∧ t.flags = flagsOf [] ∧ t.cycles = 1 := by decide

/-- 95_test_vectors.md V46.14, T9: with bit 7 set, `N` is open and everything else is fixed. -/
theorem test_pla_defect_46_14 :
    (stepped { boundary 0x2000 [(0x01FD, 0x80), (0x2000, 0x68)] with
      sp := 0xFC, a := 0x11, cfg := { Cfg.default with plaZeroDefect := true } }).map
      (fun t => (t.a, t.sp, t.flags.z)) = some (0x00, 0xFD, false) := by decide +kernel

/-- 95_test_vectors.md T4: ILLEGAL_MODE and ILLEGAL_CYCLES of opcode 0x02 set to ABS and 4. -/
theorem test_illegal_T4 :
    (stepped { boundary 0x2000 [(0x2000, 0x02), (0x2001, 0x34), (0x2002, 0x12)] with
      cfg := { Cfg.default with illegalModes := [(0x02, .abs)], illegalCycles := [(0x02, ⟨4, by decide⟩)] } }).map
      (fun t => (t.pc, t.cycles + 1)) = some (0x2003, 4) := by decide +kernel

/-! ## The host: reset, load, peripherals (95_test_vectors.md section 3) -/

/-- S2, T3: reset in the middle of an instruction keeps memory and drops the cycles left. -/
theorem test_reset_T3 :
    (stepped { boundary 0x2005 [(0x0400, 0x21), (0xFFFD, 0x20)] with x := 0x21, cycles := 3, inputs := [.reset] }).map
      (fun t => (t.pc, t.sp, t.x, t.cycles, t.rd 0x0400)) = some (0x2000, 0xFD, 0x00, 8, 0x21) := by decide +kernel

/-- T2: with RESET_CYCLES = 1 one idle tick follows a reset. -/
theorem test_reset_T2 :
    (stepped { boundary 0x2005 [] with
      cfg := { Cfg.default with resetCycles := ⟨1, by decide⟩ }, inputs := [.reset] }).map (fun t => t.cycles) =
      some 1 := by decide +kernel

/-- T7: the peripherals write after the CPU's part of the tick. -/
theorem test_peripheral_T7 :
    (stepped { boundary 0x2000 [(0x2000, 0xA2), (0x2001, 0x21)] with
      inputs := [.tick [⟨.output 1, 0x77⟩]] }).map (fun t => (t.x, t.rd 0x0401)) = some (0x21, 0x77) := by decide +kernel

/-- A program load writes from 0x2000 upward (70_reset_and_hazards.md R812). -/
theorem test_load :
    (stepped { boundary 0x0000 [] with phase := .constructed, inputs := [.load [0xA2, 0x21]] }).map
      (fun t => (t.rd 0x2000, t.rd 0x2001)) = some (0xA2, 0x21) := by decide +kernel

/-! ## Witnesses: a state and operands that meet all the hypotheses of a statement -/

/-- A boundary with `LDA $20FF,X` crossing a page, `X = 1`. -/
def ldaCrossing : State :=
  { boundary 0x2000 [(0x2000, 0xBD), (0x2001, 0xFF), (0x2002, 0x20), (0x2100, 0x80)] with x := 0x01 }

/-- A boundary at a BRK whose handler is an RTI. -/
def breakAndReturn : State := boundary 0x2000 [(0x4000, 0x40), (0xFFFF, 0x40)]

theorem witness_O1 : (0x02 : Byte) ∈ illegalOpcodes ∧ (0xFF : Byte) ∈ illegalOpcodes ∧
    (0x00 : Byte) ∉ illegalOpcodes ∧ (0xFE : Byte) ∉ illegalOpcodes := by decide

theorem witness_O2 : (Instr.lda (.abx 0x20FF)).wf = true ∧ (Instr.lda (.abx 0x20FF)).fits Cfg.default = true ∧
    (Instr.illegal 0x02 (.abs 0xFFFF)).wf = true ∧
    (Instr.illegal 0x02 (.abs 0xFFFF)).fits { Cfg.default with illegalModes := [(0x02, .abs)] } = true := by decide

/-- One byte too few, and just enough. -/
theorem witness_O4 : [(0x00 : Byte)].length < (descriptor Cfg.default 0x8D).mode.operandBytes ∧
    ¬ [(0x00 : Byte), 0x04].length < (descriptor Cfg.default 0x8D).mode.operandBytes := by decide +kernel

/-- With a tick in the list, and with an empty list. -/
theorem witness_O6 :
    (∃ s : State, s.phase = .running ∧ s.cycles = 0 ∧ s.inputs = [.tick [⟨.drawing 2, 0x01⟩], .reset] ∧
      decode s.cfg [s.rd s.pc, s.rd (s.pc + 1), s.rd (s.pc + 2)] = .ok (.lda (.abx 0x20FF), [])) ∧
    (ldaCrossing.phase = .running ∧ ldaCrossing.cycles = 0 ∧ ldaCrossing.inputs = [] ∧
      decode ldaCrossing.cfg [ldaCrossing.rd ldaCrossing.pc, ldaCrossing.rd (ldaCrossing.pc + 1),
        ldaCrossing.rd (ldaCrossing.pc + 2)] = .ok (.lda (.abx 0x20FF), [])) :=
  ⟨⟨{ ldaCrossing with inputs := [.tick [⟨.drawing 2, 0x01⟩], .reset] }, rfl, rfl, rfl, rfl⟩, rfl, rfl, rfl, rfl⟩

/-- The reset state has 8 cycles to wait. -/
theorem witness_O7 : State.reset.phase = .running ∧ State.reset.cycles ≠ 0 ∧ State.reset.inputs = [] := by decide

/-- The last idle tick, with the peripherals writing. -/
theorem witness_O7_last : ∃ s : State, s.phase = .running ∧ s.cycles = 1 ∧ s.inputs = [.tick [⟨.output 0, 0xFF⟩]] :=
  ⟨{ State.reset with cycles := 1, inputs := [.tick [⟨.output 0, 0xFF⟩]] }, rfl, rfl, rfl⟩

/-- The crossing load takes 5 ticks: `k` may be 0 and 4. -/
theorem witness_O8 : ldaCrossing.phase = .running ∧ ldaCrossing.cycles = 0 ∧ ldaCrossing.inputs = [] ∧
    ∃ t, exec ldaCrossing.fetchInstr ldaCrossing.fetched = .next t ∧ t.cycles = 5 ∧ t.a = 0x80 :=
  ⟨rfl, rfl, rfl, _, rfl, rfl, rfl⟩

theorem witness_O9 : ∃ t, exec (.lda (.abx 0x20FF)) ldaCrossing = .next t ∧ t.cycles = 1 := ⟨_, rfl, rfl⟩

/-- A state about to tick, and one about to be reset. -/
theorem witness_O10 : State.reset.phase = .running ∧ (∀ bytes rest, State.reset.inputs ≠ .load bytes :: rest) ∧
    ∀ bytes rest, ({ State.reset with inputs := [.reset] } : State).inputs ≠ .load bytes :: rest :=
  ⟨rfl, fun _ _ h => (nomatch h), fun _ _ h => (nomatch h)⟩

/-- At the bound 8 of `cycles`, and at a boundary with cells in memory. -/
theorem witness_O11 : Inv State.reset ∧ State.reset.cycles = cycleBound State.reset.cfg ∧ (∃ t, step State.reset = .next t) ∧
    Inv breakAndReturn ∧ ∃ t, step breakAndReturn = .next t :=
  ⟨⟨by decide, by decide +kernel⟩, by decide +kernel, ⟨_, rfl⟩, ⟨by decide, by decide +kernel⟩, ⟨_, rfl⟩⟩

theorem witness_O13 : ∃ t, step { ldaCrossing with inputs := [.tick [], .reset] } = .next t ∧ t.inputs = [.reset] :=
  ⟨_, rfl, rfl⟩

theorem witness_O14 : ({ ldaCrossing with inputs := [.reset] } : State).inputs = .reset :: [] := rfl

/-- Two states that differ in every register and flag, reset alike. -/
theorem witness_O15 : ∃ s t : State, s.inputs = .reset :: [] ∧ t.inputs = .reset :: [] ∧ s.mem = t.mem ∧
    s.cfg = t.cfg ∧ s.draws = t.draws ∧ s.pc ≠ t.pc ∧ s.a ≠ t.a ∧ s.flags ≠ t.flags ∧ s.cycles ≠ t.cycles :=
  ⟨{ State.reset with inputs := [.reset] },
    { State.reset with inputs := [.reset], pc := 0x2000, a := 0x01, flags := flagsOf [.n], cycles := 3 },
    rfl, rfl, rfl, rfl, rfl, by decide, by decide, by decide, by decide⟩

theorem witness_O16 : (boundary 0x2000 []).mem = [] ∧ (boundary 0x2000 []).cfg = Cfg.default ∧
    (boundary 0x2000 []).draws = 0 ∧ (boundary 0x2000 []).inputs = [] := ⟨rfl, rfl, rfl, rfl⟩

/-- `k` may be 0 and 8. -/
theorem witness_O17 : State.reset.inputs = [] ∧ 0 ≤ State.reset.cfg.resetCycles.val ∧
    8 ≤ State.reset.cfg.resetCycles.val ∧
    ∃ t, exec { State.reset.hostReset with cycles := 0 }.fetchInstr { State.reset.hostReset with cycles := 0 }.fetched =
      .next t := ⟨rfl, by decide, by decide, _, rfl⟩

/-- One state for each of the three refusals, the last one with a program one byte too long. -/
theorem witness_O18 :
    refusal (step { State.reset with phase := .constructed }) = some .tickBeforeReset ∧
    refusal (step { State.reset with phase := .constructed, inputs := [.tick []] }) = some .tickBeforeReset ∧
    refusal (step { State.reset with inputs := [.load []] }) = some .loadDuringRun ∧
    (∃ s : State, s.phase = .constructed ∧ s.inputs = [.load (List.replicate 0xE001 0x00)]) ∧
    0xE000 < (List.replicate 0xE001 (0x00 : Byte)).length :=
  ⟨rfl, rfl, rfl, ⟨{ State.reset with phase := .constructed, inputs := [.load (List.replicate 0xE001 0x00)] }, rfl, rfl⟩,
    by rw [List.length_replicate]; decide⟩

/-- The first and the last byte of a program, and the addresses beside it. -/
theorem witness_O19 :
    (∃ s : State, s.phase = .constructed ∧ s.inputs = .load [0xA2, 0x21] :: [.reset]) ∧
    [(0xA2 : Byte), 0x21].length ≤ 0xE000 ∧ (List.replicate 0xE000 (0x00 : Byte)).length ≤ 0xE000 ∧
    [(0xA2 : Byte), 0x21][0]? = some 0xA2 ∧ [(0xA2 : Byte), 0x21][1]? = some 0x21 ∧
    (0x1FFF : Word).toNat < 0x2000 ∧ 0x2000 + [(0xA2 : Byte), 0x21].length ≤ (0x2002 : Word).toNat :=
  ⟨⟨{ State.reset with phase := .constructed, inputs := [.load [0xA2, 0x21], .reset] }, rfl, rfl⟩, by decide,
    by rw [List.length_replicate], rfl, rfl, by decide, by decide⟩

/-- Window writes over an executing tick: a cell written twice, one written first and one written last, at the ends of
both windows. -/
def windowList : List WindowWrite :=
  [⟨.output 0, 0x11⟩, ⟨.output 4, 0x22⟩, ⟨.drawing 0, 0x33⟩, ⟨.output 4, 0x44⟩, ⟨.drawing 2, 0x55⟩]

/-- An executing tick, with those writes and with none; window cells that one, two and no writes name, and the
addresses beside the windows. -/
theorem witness_O20 :
    ldaCrossing.phase = .running ∧ (∃ t, step { ldaCrossing with inputs := .tick [] :: [] } = .next t ∧ t.a = 0x80) ∧
    ([(0x0400 : Word), 0x0404, 0x0500, 0x0502].map fun a => (windowList.reverse.find? fun w => w.cell.addr = a).map
      (·.value)) = [some 0x11, some 0x44, some 0x33, some 0x55] ∧
    ([(0x0401 : Word), 0x0501, 0x03FF, 0x0405, 0x04FF, 0x0503].map fun a =>
      windowList.reverse.find? fun w => w.cell.addr = a) = List.replicate 6 none ∧
    ([(0x03FF : Word), 0x0405, 0x04FF, 0x0503].all fun a =>
      ¬ (0x400 ≤ a.toNat ∧ a.toNat < 0x405) ∧ ¬ (0x500 ≤ a.toNat ∧ a.toNat < 0x503)) = true :=
  ⟨rfl, ⟨_, rfl, rfl⟩, by decide, by decide, by decide⟩

/-- T7 of 95_test_vectors.md, with more writes: each cell holds its last one, a window byte that no write names keeps
its own, and the CPU's part of the tick is done. -/
theorem test_window_writes :
    meets { ldaCrossing with mem := Memory.set ldaCrossing.mem 0x0401 0x77, inputs := [.tick windowList] }
      fun t => t.a = 0x80 ∧ t.rd 0x0400 = 0x11 ∧ t.rd 0x0401 = 0x77 ∧ t.rd 0x0404 = 0x44 ∧ t.rd 0x0500 = 0x33 ∧
        t.rd 0x0502 = 0x55 := by decide +kernel

/-- The boundaries of the address map, on both sides. -/
theorem witness_O21_O22 :
    ([(0x0000 : Word), 0x01FF, 0x0400, 0x0404, 0x0500, 0x0502, 0x1000, 0xFFFF].all fun a => isMapped a.toNat) = true ∧
    ([(0x0200 : Word), 0x03FF, 0x0405, 0x04FF, 0x0503, 0x0FFF].any fun a => isMapped a.toNat) = false := by decide

/-- A memory of two cells, before and after a write that removes one of them. -/
theorem witness_O23 : Memory.wf [(0x0010, 0x01), (0x2000, 0xA9)] ∧
    Memory.set [(0x0010, 0x01), (0x2000, 0xA9)] 0x0010 0x00 = [(0x2000, 0xA9)] ∧ Memory.wf [(0x2000, 0xA9)] := by decide

/-- A documented opcode for each claim about the modes, and pointers on both sides of the page wrap. -/
theorem witness_O24 :
    ([(0xB6 : Byte), 0x96, 0x6C, 0xD0, 0x4C].all fun op => op ∉ illegalOpcodes) = true ∧
    (0x30FF : Word).toNat % 256 = 255 ∧ (0x30FE : Word).toNat % 256 ≠ 255 := by decide

theorem witness_O25 : Operand.abx 0x20FF ≠ .imp ∧ ∀ ii, Operand.abx 0x20FF ≠ .imm ii :=
  ⟨by decide, fun _ h => (nomatch h)⟩

/-- 95_test_vectors.md V42.1 and V42.10. -/
theorem witness_O28 :
    (∃ t, exec (.adc (.imm 0x50)) { boundary 0x2001 [] with a := 0x50 } = .next t ∧ t.flags.v = true) ∧
    ∃ t, exec (.sbc (.imm 0x00)) (boundary 0x2001 []) = .next t ∧ t.a = 0xFF ∧ t.flags.c = false :=
  ⟨⟨_, rfl, by decide +kernel⟩, ⟨_, rfl, by decide +kernel, by decide +kernel⟩⟩

theorem witness_O29 : ∃ t, exec (.adc (.imm 0x01)) { boundary 0x2001 [] with a := 0x09, flags := flagsOf [.d] } = .next t ∧
    t.a = 0x0A := ⟨_, rfl, by decide +kernel⟩

theorem witness_O37 : (boundary 0x2001 [(0x01FE, 0x80)]).cfg.plaZeroDefect = false := rfl

theorem witness_O38 : ({ boundary 0x2001 [] with cfg := { Cfg.default with plaZeroDefect := true } } : State).cfg.plaZeroDefect =
    true := rfl

/-- The two ends of the stack page, and the addresses beside it. -/
theorem witness_O41 : ({ boundary 0x2001 [] with sp := 0x00 } : State).sp = 0x00 ∧
    ({ boundary 0x2001 [] with sp := 0xFF } : State).sp = 0xFF ∧ (0x00FF : Word).toNat < 0x100 ∧
    0x200 ≤ (0x0200 : Word).toNat := ⟨rfl, rfl, by decide, by decide⟩

/-- The addresses beside a return address, with the stack pointer at its lower end. -/
theorem witness_O47_O50 : ([(0x00FF : Word), 0x0101, 0x01FD].all fun a =>
    a ≠ stackAddr 0x00 ∧ a ≠ stackAddr (0x00 - 1) ∧ a ≠ stackAddr (0x00 - 2)) = true := by decide

theorem witness_O49 : ∃ t, exec (.jsr 0x3000) (boundary 0x2001 []) = .next t ∧
    ({ boundary 0x3000 t.mem with sp := t.sp } : State).mem = t.mem ∧
    ({ boundary 0x3000 t.mem with sp := t.sp } : State).sp = t.sp := ⟨_, rfl, rfl, rfl⟩

/-- A BRK at 0x2000 whose handler at 0x4000 is an RTI. -/
theorem witness_O52 : breakAndReturn.phase = .running ∧ breakAndReturn.cycles = 0 ∧ breakAndReturn.inputs = [] ∧
    breakAndReturn.rd breakAndReturn.pc = 0x00 ∧
    (next (core.run 7 breakAndReturn)).map (fun t => (t.pc, t.cycles, t.rd t.pc)) = some (0x4000, 0, 0x40) := by
  decide +kernel

theorem witness_O53 : (0x02 : Byte) ∈ illegalOpcodes := by decide

/-- A store, an address it does not store to, and the next state. -/
theorem witness_O54 : ∃ t, exec (.sta (.abs 0x0400)) { boundary 0x2001 [] with a := 0x21 } = .next t ∧
    (0x0401 : Word) ∉ storedTo (.sta (.abs 0x0400)) { boundary 0x2001 [] with a := 0x21 } ∧ t.rd 0x0400 = 0x21 :=
  ⟨_, rfl, by decide, by decide +kernel⟩

/-- An instruction that writes no register but `A`, and one that draws. -/
theorem witness_O55 : (∃ t, exec (.lda (.imm 0x80)) (boundary 0x2001 []) = .next t ∧ t.a = 0x80) ∧
    writesA (.sta (.abs 0x0400)) = false ∧ writesX Operation.lda = false ∧ writesY Operation.lda = false ∧
    writesSP Operation.lda = false ∧ Instr.lda (.imm 0x80) ≠ .pla := ⟨⟨_, rfl, rfl⟩, by decide⟩

theorem witness_O56 : (∃ t, exec .sec (boundary 0x2001 []) = .next t ∧ t.flags.c = true) ∧
    FlagName.z ∉ writtenFlags Instr.sec.operation := ⟨⟨_, rfl, rfl⟩, by decide⟩

/-- Two states that differ in `B` and `U` only, at a PHP. -/
theorem witness_O57 :
    SameButBU (boundary 0x2000 [(0x2000, 0x08)]) { boundary 0x2000 [(0x2000, 0x08)] with flags := flagsOf [.b, .u] } ∧
    boundary 0x2000 [(0x2000, 0x08)] ≠ { boundary 0x2000 [(0x2000, 0x08)] with flags := flagsOf [.b, .u] } ∧
    ∃ t, step (boundary 0x2000 [(0x2000, 0x08)]) = .next t ∧ t.sp = 0xFC := ⟨rfl, by decide, _, rfl, rfl⟩

/-- Two states that differ in the transient fields only, at an accumulator shift. -/
theorem witness_O58 :
    SameButScratch (boundary 0x2000 [(0x2000, 0x0A)])
      { boundary 0x2000 [(0x2000, 0x0A)] with scratch := ⟨0x01, 0x02, 0x0003, 0x0004, -5⟩ } ∧
    ∃ t, step (boundary 0x2000 [(0x2000, 0x0A)]) = .next t ∧ t.pc = 0x2001 := ⟨rfl, _, rfl, rfl⟩

/-! ## The end of a run -/

/-- A launch of program P1 of 95_test_vectors.md: memory as its `INIT_MEM`, nothing reset yet, and then these host
actions. -/
def roundTrip (inputs : List HostInput) : State :=
  { State.reset with
    phase := .constructed
    pc := 0x2005
    cycles := 0
    mem := [(0x2000, 0xA2), (0x2001, 0x21), (0x2002, 0x8E), (0x2004, 0x04), (0xFFFD, 0x20)]
    inputs := inputs }

/-- T1: the state after tick k, for the ticks on which something happens, and right after the reset. -/
theorem test_ticks_after_reset :
    ([0, 8, 9, 11, 14].map fun n => (observed 15 (.ticks n) (roundTrip [.reset])).map fun t =>
      (t.pc, t.x, t.rd 0x0400, t.cycles)) =
    [some (0x2000, 0x00, 0x00, 8), some (0x2000, 0x00, 0x00, 0), some (0x2002, 0x21, 0x00, 1),
      some (0x2005, 0x21, 0x21, 3), some (0x2005, 0x21, 0x21, 0)] := by decide +kernel

/-- P1: the end at H = 0x2005, which the state before the reset, whose PC is 0x2005 too, is not. -/
theorem test_halt_at_address :
    (observed 15 (.halt 0x2005) (roundTrip [.reset])).map (fun t => (t.a, t.x, t.y, t.sp, t.rd 0x0400, t.pc)) =
      some (0x00, 0x21, 0x00, 0xFD, 0x21, 0x2005) ∧
    observed 0 (.halt 0x2005) (roundTrip [.reset]) = none ∧ observed 9 (.halt 0x2005) (roundTrip []) = none := by
  decide +kernel

/-- T3: a reset after tick 11, and one tick more. -/
theorem test_reset_during_a_run :
    (observed 14 (.ticks 12) (roundTrip (.reset :: (List.replicate 11 (.tick []) ++ [.reset])))).map
      (fun t => (t.pc, t.x, t.rd 0x0400, t.cycles)) = some (0x2000, 0x00, 0x21, 7) := by decide +kernel

/-- A run that ends, at its fifteenth action, and a state on the way that is no end. -/
theorem witness_O59 :
    (∃ t, observed 15 (.halt 0x2005) (roundTrip [.reset]) = some t ∧ t.x = 0x21) ∧ (8 : Nat) < 15 ∧
    (next (core.run 8 (roundTrip [.reset]))).map (fun u => (u.pc, u.cycles)) = some (0x2000, 1) := by
  refine ⟨?_, by decide, by decide +kernel⟩
  have h : (observed 15 (.halt 0x2005) (roundTrip [.reset])).map (·.x) = some 0x21 := by decide +kernel
  exact Option.map_eq_some_iff.1 h

/-- A launch with a load, the reset and a tick that the list gives, the others after its end; and the observation. -/
theorem witness_O60 :
    (roundTrip [.load [0xA2, 0x21], .reset, .tick []]).phase = .constructed ∧
    (roundTrip [.load [0xA2, 0x21], .reset, .tick []]).inputs =
      [[0xA2, 0x21]].map HostInput.load ++ HostInput.reset :: [[]].map HostInput.tick ∧
    (∀ bytes, bytes ∈ [[(0xA2 : Byte), 0x21]] → bytes.length ≤ 0xE000) ∧
    (∃ t, observed 11 (.ticks 9) (roundTrip [.load [0xA2, 0x21], .reset, .tick []]) = some t ∧ t.x = 0x21) ∧
    ticksAmong 11 (roundTrip [.load [0xA2, 0x21], .reset, .tick []]).inputs = 9 := by
  refine ⟨rfl, rfl, by simp, ?_, by decide +kernel⟩
  have h : (observed 11 (.ticks 9) (roundTrip [.load [0xA2, 0x21], .reset, .tick []])).map (·.x) = some 0x21 := by
    decide +kernel
  exact Option.map_eq_some_iff.1 h

end Sys2Proof.Tests
end

section
/-! PROOF. The scope of the model (00_scope.md): the configuration is no state that a step changes (R12), and `D` acts
on nothing (R9). -/

namespace Sys2Proof.Machine

/-! ## What a tick and a step leave alone -/

/-- A bus tick changes neither the configuration, nor the phase, nor the host's actions, whether it executes or
idles. -/
theorem busTick_keeps {ws : List WindowWrite} {s t : State} (h : busTick ws s = .next t) :
    t.cfg = s.cfg ∧ t.phase = s.phase ∧ t.inputs = s.inputs := by
  obtain ⟨-, u, hu, rfl⟩ | ⟨-, rfl⟩ := busTick_cases h
  · obtain ⟨hcfg, hphase, hinputs, -⟩ := exec_keeps hu
    simp [hcfg, hphase, hinputs]
  · simp

/-- Settles O13: the configuration, the host's actions and the phase after each of the three things a step can be. -/
theorem configurationNeverChanges : Obligations.ConfigurationNeverChanges := by
  intro s t h
  obtain ⟨ws, hp, hb⟩ | ⟨rest, hi, rfl⟩ | ⟨bytes, rest, hi, hp, -, rfl⟩ := step_cases h
  case inl =>
    obtain ⟨hcfg, hphase, hinputs⟩ := busTick_keeps hb
    exact ⟨hcfg, hinputs, fun _ => hphase.trans hp⟩
  case inr.inl => simp [hi]
  case inr.inr => simp [hi, hp]

/-! ## Decimal mode -/

/-- The state with `D` the other way round. -/
def State.flipD (s : State) : State := { s with flags := { s.flags with d := !s.flags.d } }

/-- No resolver reads `D`. -/
theorem resolve_flipD (o : Operand) (s : State) : resolve o s.flipD = (resolve o s).flipD := by
  cases o <;> rfl

/-- The operand does not depend on `D`. -/
theorem readOperand_flipD (o : Operand) (s : State) : readOperand o s.flipD = readOperand o s := by
  cases o <;> rfl

/-- The page penalty does not depend on `D`. -/
theorem pagePenalty_flipD (op : Operation) (o : Operand) (s : State) :
    pagePenalty op o s.flipD = pagePenalty op o s := by
  cases o <;> rfl

/-- The addition of both instructions keeps `D` and computes the same whatever it holds (10_state.md R111). -/
theorem State.addWithCarry_flipD (s : State) (n : Byte) : s.flipD.addWithCarry n = (s.addWithCarry n).flipD := rfl

/-- An operation that commutes with flipping `D` still does in the frame every operation runs in. -/
theorem runOperation_flipD {op : Operation} {o : Operand} {f : State → State} {s t : State}
    (hf : ∀ u : State, f u.flipD = (f u).flipD) (h : runOperation op o f s = .next t) :
    runOperation op o f s.flipD = .next t.flipD := by
  rw [runOperation_next h, runOperation, resolve_flipD, hf, pagePenalty_flipD]
  rfl

/-- Settles O29: both instructions are `addWithCarry`, of the operand or of its complement, in the common frame. -/
theorem decimalModeDoesNotChangeArithmetic : Obligations.DecimalModeDoesNotChangeArithmetic := by
  intro o i s t hi h
  obtain rfl | rfl := hi
  case inl =>
    rw [exec_adc] at h ⊢
    refine runOperation_flipD (fun u => ?_) h
    rw [readOperand_flipD, State.addWithCarry_flipD]
  case inr =>
    rw [exec_sbc] at h ⊢
    refine runOperation_flipD (fun u => ?_) h
    rw [readOperand_flipD, State.addWithCarry_flipD]

end Sys2Proof.Machine
end

section
/-! PROOF. The invariant of 10_state.md: memory stays canonical and `cycles` within R118's bound. -/

namespace Sys2Proof.Machine

/-! ## What an instruction adds to `cycles` -/

/-- The most cycles an operation adds to its base count: two for a branch (45_branch.md R520), one where the page
penalty is reported (40_engine.md R403). -/
def maxExtra : Operation → Nat
  | .bcc | .bcs | .beq | .bne | .bmi | .bpl | .bvc | .bvs => 2
  | op => bit01 (reportsExtra op)

theorem pagePenalty_le_reports (op : Operation) (o : Operand) (s : State) :
    pagePenalty op o s ≤ bit01 (reportsExtra op) := by
  unfold pagePenalty bit01
  cases crossesPage o s <;> cases reportsExtra op <;> decide

theorem State.branch_cycles_le (s : State) (cond : Bool) : (s.branch cond).cycles ≤ s.cycles + 2 := by
  have hcost : s.branchCost ≤ 2 := by unfold State.branchCost; split <;> decide
  unfold State.branch
  split
  · exact Nat.add_le_add_left hcost _
  · exact Nat.le_add_right _ _

/-- No instruction takes more than its worst case of extra cycles. -/
theorem exec_cycles_le {i : Instr} {s t : State} (h : exec i s = .next t) :
    t.cycles ≤ s.cycles + maxExtra i.operation := by
  cases i <;> (simp at h; obtain rfl := runOperation_next h)
  case bcc | bcs | beq | bne | bmi | bpl | bvc | bvs => exact State.branch_cycles_le (resolve _ s) _
  all_goals simpa [Instr.operation, maxExtra] using pagePenalty_le_reports _ _ s

/-- A documented row's base count and its worst case of extra cycles make at most 7. -/
def rowWithinSeven (n : Nat) : Bool :=
  match opcodeMap.getD n none with
  | some d => d.base + maxExtra d.operation ≤ 7
  | none => true

theorem all_rows_within_seven : (List.range 256).all rowWithinSeven = true := by decide +kernel

theorem documented_cycles_le_seven {op : Byte} {d : Descriptor} (h : opcodeMap.getD op.toNat none = some d) :
    d.base + maxExtra d.operation ≤ 7 := by
  have hrow := List.all_eq_true.1 all_rows_within_seven _ (List.mem_range.2 op.isLt)
  simpa only [rowWithinSeven, h, decide_eq_true_eq] using hrow

/-- The base count of any opcode and the worst case of its operation stay within the bound (10_state.md R118). -/
theorem descriptor_base_le_bound (cfg : Cfg) (op : Byte) :
    (descriptor cfg op).base + maxExtra (descriptor cfg op).operation ≤ cycleBound cfg := by
  unfold cycleBound
  rcases descriptor_cases cfg op with ⟨d, hmap, hd, -⟩ | ⟨-, hop, hd⟩
  · rw [hd]
    have := documented_cycles_le_seven hmap
    omega
  · have : (cfg.illegalCyclesOf op).val ≤ maxIllegalCycles cfg :=
      List.le_max_of_le' 0 (List.mem_map_of_mem hop) le_rfl
    rw [hd]
    show (cfg.illegalCyclesOf op).val + 0 ≤ _
    omega

@[simp] theorem assemble_operation (operation : Operation) (mode : Mode) (op b1 b2 : Byte) :
    (assemble operation mode op b1 b2).operation = operation := by
  cases operation <;> rfl

/-- After the tick that executes an instruction `cycles` is within the bound. -/
theorem exec_fetched_cycles_le {s t : State} (h : exec s.fetchInstr s.fetched = .next t) :
    t.cycles ≤ cycleBound s.cfg := by
  have hbound := descriptor_base_le_bound s.cfg (s.rd s.pc)
  have hcost := exec_cycles_le h
  simp only [State.fetchInstr, decodeBytes, assemble_operation, State.fetched_cycles] at hcost
  exact Nat.le_trans hcost hbound

/-! ## Memory -/

/-- Every instruction keeps memory canonical: those that store do it through the bus. -/
theorem exec_wf {i : Instr} {s t : State} (h : exec i s = .next t) (hm : Memory.wf s.mem) : Memory.wf t.mem := by
  have hr (o : Operand) : Memory.wf (resolve o s).mem := hm
  cases i <;> (simp at h; obtain rfl := runOperation_next h)
  case inc | dec => exact State.storeResult_wf _ _ (hr _)
  case asl | lsr | rol | ror => exact State.shiftTo_wf _ _ _ _ (hr _)
  case sta | stx | sty => exact State.wr_wf _ _ _ (hr _)
  case pha | php => exact State.push_wf _ _ (hr _)
  case jsr => exact State.pushWord_wf _ _ (hr _)
  case brk => exact State.takeBreak_wf _ (hr _)
  all_goals simpa using hm

/-! ## The invariant -/

theorem busTick_inv {ws : List WindowWrite} {s t : State} (hi : Inv s) (h : busTick ws s = .next t) : Inv t := by
  obtain ⟨hm, hc⟩ := hi
  obtain ⟨-, u, hu, rfl⟩ | ⟨-, rfl⟩ := busTick_cases h
  case inl =>
    have hcfg : u.cfg = s.cfg := (exec_keeps hu).1
    have hle := exec_fetched_cycles_le hu
    refine ⟨u.endTick_wf ws (exec_wf hu hm), ?_⟩
    rw [State.endTick_cycles, State.endTick_cfg, hcfg]
    omega
  case inr =>
    refine ⟨s.endTick_wf ws hm, ?_⟩
    rw [State.endTick_cycles, State.endTick_cfg]
    omega

/-- Settles O11: a tick by the worst case of the fetched opcode, a reset by `RESET_CYCLES`, a load by the bus write. -/
theorem everyStepKeepsTheInvariant : Obligations.EveryStepKeepsTheInvariant := by
  intro s t hi h
  obtain ⟨ws, -, hb⟩ | ⟨rest, -, rfl⟩ | ⟨bytes, rest, -, -, -, rfl⟩ := step_cases h
  case inl => exact busTick_inv (s := { s with inputs := s.inputs.tail }) ⟨hi.memory, hi.cycles⟩ hb
  case inr.inl => exact ⟨hi.memory, Nat.le_max_right ..⟩
  case inr.inr =>
    refine ⟨State.writeBytes_wf _ _ _ hi.memory, ?_⟩
    simpa using hi.cycles

/-- Settles O12: reset memory lists nothing, and `cycles` is `RESET_CYCLES`. -/
theorem resetStateMeetsTheInvariant : Obligations.ResetStateMeetsTheInvariant :=
  ⟨State.reset_mem_wf, Nat.le_max_right ..⟩

end Sys2Proof.Machine
end

section
/-! PROOF. What 10_state.md says no program observes: the stored `B` and `U` (R111) and what an earlier instruction left
in the transient fields (R119). Each of them is erased from the state before a step, and the step is shown to do the
same to the rest. -/

namespace Sys2Proof.Machine

/-! ## Blindness to an erased part of the state -/

/-- The state with its flags and its transient fields cut down to what `φ` and `σ` keep of them. -/
def State.erase (φ : Flags → Flags) (σ : Scratch → Scratch) (s : State) : State :=
  { s with flags := φ s.flags, scratch := σ s.scratch }

/-- An outcome with `e` applied to its next state. -/
def mapNext (e : State → State) : Host.Outcome State Fault Refusal → Host.Outcome State Fault Refusal
  | .next s => .next (e s)
  | .fault r => .fault r
  | .refused r => .refused r

theorem mapNext_eq_next {e : State → State} {r : Host.Outcome State Fault Refusal} {u : State}
    (h : mapNext e r = .next u) : ∃ t, r = .next t ∧ e t = u := by
  cases r with
  | next t => exact ⟨t, rfl, Host.Outcome.next.inj h⟩
  | fault r => cases h
  | refused r => cases h

/-- `g` does not observe what `e` erases: erasing it beforehand changes nothing that `e` does not erase. -/
def Blind (e : State → State) (g : State → Host.Outcome State Fault Refusal) : Prop :=
  ∀ s, mapNext e (g (e s)) = mapNext e (g s)

/-- A blind function takes two states that agree but for what is erased to two such states. -/
theorem Blind.same {e : State → State} {g : State → Host.Outcome State Fault Refusal} (hg : Blind e g)
    {s t s' : State} (h : e s = e t) (hs : g s = .next s') : ∃ t', g t = .next t' ∧ e s' = e t' := by
  have hr : mapNext e (g t) = .next (e s') :=
    calc mapNext e (g t) = mapNext e (g (e t)) := (hg t).symm
      _ = mapNext e (g (e s)) := by rw [h]
      _ = mapNext e (g s) := hg s
      _ = .next (e s') := by rw [hs]; rfl
  obtain ⟨t', ht, he⟩ := mapNext_eq_next hr
  exact ⟨t', ht, he.symm⟩

section
variable {φ : Flags → Flags} {σ : Scratch → Scratch}

/-! ## The shared operations commute with the erasure -/

theorem State.erase_wr (s : State) (a : Word) (v : Byte) : (s.erase φ σ).wr a v = (s.wr a v).erase φ σ := by
  unfold State.wr; split <;> rfl

theorem State.erase_windowWrites (s : State) (ws : List WindowWrite) :
    (s.erase φ σ).windowWrites ws = (s.windowWrites ws).erase φ σ := by
  unfold State.windowWrites
  induction ws generalizing s with
  | nil => rfl
  | cons w ws ih => rw [List.foldl_cons, List.foldl_cons, State.erase_wr, ih]

theorem State.erase_endTick (s : State) (ws : List WindowWrite) :
    (s.erase φ σ).endTick ws = (s.endTick ws).erase φ σ :=
  State.erase_windowWrites { s with cycles := s.cycles - 1 } ws

theorem State.erase_writeBytes (s : State) (a : Nat) (bs : List Byte) :
    (s.erase φ σ).writeBytes a bs = (s.writeBytes a bs).erase φ σ := by
  induction bs generalizing s a with
  | nil => rfl
  | cons b bs ih => rw [State.writeBytes, State.writeBytes, State.erase_wr, ih]

theorem pagePenalty_erase (op : Operation) (o : Operand) (s : State) :
    pagePenalty op o (s.erase φ σ) = pagePenalty op o s := by
  cases o <;> rfl

/-- What an operation does to the erased state its resolver leaves, it does in the common frame. -/
theorem runOperation_erase {op : Operation} {o : Operand} {f : State → State} {s u v : State}
    (hu : runOperation op o f s = .next u) (hv : runOperation op o f (s.erase φ σ) = .next v)
    (hf : (f (resolve o (s.erase φ σ))).erase φ σ = (f (resolve o s)).erase φ σ) : v.erase φ σ = u.erase φ σ := by
  rw [runOperation_next hu, runOperation_next hv, pagePenalty_erase]
  exact congrArg (fun w : State => w.addCycles (pagePenalty op o s)) hf

/-! ## A step is blind when the instruction it executes is -/

theorem exec_blind {i : Instr}
    (h : ∀ {s u v : State}, exec i s = .next u → exec i (s.erase φ σ) = .next v → v.erase φ σ = u.erase φ σ) :
    Blind (State.erase φ σ) (exec i) := by
  intro s
  obtain ⟨u, hu⟩ := exec_next i s
  obtain ⟨v, hv⟩ := exec_next i (s.erase φ σ)
  rw [hu, hv]
  exact congrArg Host.Outcome.next (h hu hv)

variable (twice : ∀ s : State, (s.erase φ σ).erase φ σ = s.erase φ σ)
  (hfetched : ∀ s : State, (s.erase φ σ).fetched.erase φ σ = s.fetched.erase φ σ)
  (hexec : ∀ s : State, Blind (State.erase φ σ) (exec s.fetchInstr))

include hfetched hexec in
theorem fetchExecute_blind : Blind (State.erase φ σ) fetchExecute := by
  intro s
  calc mapNext (State.erase φ σ) (exec s.fetchInstr (s.erase φ σ).fetched)
      = mapNext (State.erase φ σ) (exec s.fetchInstr ((s.erase φ σ).fetched.erase φ σ)) := (hexec s _).symm
    _ = mapNext (State.erase φ σ) (exec s.fetchInstr (s.fetched.erase φ σ)) := by rw [hfetched]
    _ = mapNext (State.erase φ σ) (exec s.fetchInstr s.fetched) := hexec s _

include twice

theorem hostLoad_blind (bytes : List Byte) : Blind (State.erase φ σ) (hostLoad bytes) := by
  intro s
  have hp : (s.erase φ σ).phase = s.phase := rfl
  unfold hostLoad
  rw [hp]
  cases s.phase with
  | running => rfl
  | constructed =>
    cases fitsBelowTop bytes.length with
    | false => rfl
    | true => exact congrArg Host.Outcome.next (by rw [State.erase_writeBytes, twice])

include hfetched hexec

theorem busTick_blind (ws : List WindowWrite) : Blind (State.erase φ σ) (busTick ws) := by
  intro s
  by_cases hc : s.cycles = 0
  case pos =>
    have hc' : (s.erase φ σ).cycles = 0 := hc
    obtain ⟨u, hu⟩ : ∃ u, fetchExecute s = .next u := exec_next s.fetchInstr s.fetched
    obtain ⟨v, hv, he⟩ := (fetchExecute_blind hfetched hexec).same (twice s).symm hu
    simp only [busTick, hc, hc', hu, hv, if_true, mapNext]
    rw [← State.erase_endTick, ← State.erase_endTick, he]
  case neg =>
    have hc' : (s.erase φ σ).cycles ≠ 0 := hc
    simp only [busTick, hc, hc', if_false, mapNext]
    rw [State.erase_endTick, twice]

theorem hostTick_blind (ws : List WindowWrite) : Blind (State.erase φ σ) (hostTick ws) := by
  intro s
  have hp : (s.erase φ σ).phase = s.phase := rfl
  unfold hostTick
  rw [hp]
  cases s.phase with
  | constructed => rfl
  | running => exact busTick_blind twice hfetched hexec ws s

/-- A step is blind when the instruction it executes is; a reset writes everything that can be erased. -/
theorem step_blind : Blind (State.erase φ σ) step := by
  intro s
  have hi : (s.erase φ σ).inputs = s.inputs := rfl
  unfold step hostAction
  rw [hi]
  rcases s.inputs with _ | ⟨ws | _ | bytes, rest⟩
  · exact hostTick_blind twice hfetched hexec [] s
  · exact hostTick_blind twice hfetched hexec ws { s with inputs := rest }
  · rfl
  · exact hostLoad_blind twice bytes { s with inputs := rest }

end

/-! ## The conditional operations as updates of single fields

In this form two states that differ only in what is erased are taken to such states by definition. -/

theorem State.wr_eq (s : State) (a : Word) (v : Byte) :
    s.wr a v = { s with mem := if isMapped a.toNat then Memory.set s.mem a.toNat v else s.mem } := by
  unfold State.wr; split <;> rfl

theorem State.branch_eq (s : State) (cond : Bool) :
    s.branch cond = { s with
      pc := if cond then s.branchTarget else s.pc
      cycles := if cond then s.cycles + s.branchCost else s.cycles } := by
  unfold State.branch; split <;> rfl

theorem State.pla_eq (s : State) :
    s.pla = { s with
      sp := s.sp + 1
      a := if s.cfg.plaZeroDefect then 0x00 else s.pullByte
      flags := { s.flags with
        z := if s.cfg.plaZeroDefect then false else decide (s.pullByte = 0)
        n := if s.cfg.plaZeroDefect then sign s.pullByte && Config.freeBit s.draws else sign s.pullByte }
      draws := if s.cfg.plaZeroDefect then s.draws + 1 else s.draws } := by
  unfold State.pla; split <;> rfl

/-! ## The stored `B` and `U` -/

/-- The flags without what `B` and `U` say. -/
def Flags.dropBU (f : Flags) : Flags := { f with b := false, u := false }

/-- No instruction observes the stored `B` and `U`: no condition reads them, and a status is pushed with both bits 1
(10_state.md R113). -/
theorem exec_erase_dropBU {i : Instr} {s u v : State} (h : exec i s = .next u)
    (h' : exec i (s.erase Flags.dropBU id) = .next v) : v.erase Flags.dropBU id = u.erase Flags.dropBU id := by
  cases i <;> (simp at h h'; refine runOperation_erase h h' ?_)
  case bcc | bcs | beq | bne | bmi | bpl | bvc | bvs => rw [State.branch_eq, State.branch_eq]; rfl
  case pla => rw [State.pla_eq, State.pla_eq]; rfl
  case asl o | lsr o | rol o | ror o => cases o <;> simp only [State.shiftTo, writeBack, State.wr_eq] <;> rfl
  case inc | dec => simp only [State.storeResult, State.wr_eq]; rfl
  case sta | stx | sty => simp only [State.wr_eq]; rfl
  case pha | php => simp only [State.push, State.wr_eq]; rfl
  case jsr => simp only [State.pushWord, State.push, State.wr_eq]; rfl
  case brk => simp only [State.takeBreak, State.pushFrame, State.pushWord, State.push, State.wr_eq]; rfl
  all_goals rfl

/-- Settles O57: a step is blind to the stored `B` and `U`, because every instruction is. -/
theorem storedBAndUAreNeverObserved : Obligations.StoredBAndUAreNeverObserved := by
  intro s t s' h hs
  have hstep : Blind (State.erase Flags.dropBU id) step :=
    step_blind (fun _ => rfl) (fun _ => rfl) (fun _ => exec_blind exec_erase_dropBU)
  exact hstep.same h hs

/-! ## The transient fields -/

/-- Nothing of the transient fields. -/
def Scratch.drop (_ : Scratch) : Scratch := Scratch.zero

theorem operandOf_mode (mode : Mode) (b1 b2 : Byte) : (operandOf mode b1 b2).mode = mode := by
  cases mode <;> rfl

/-- A mode that the operation has is the mode of the instruction assembled from the two. -/
theorem assemble_mode {operation : Operation} {mode : Mode} (h : mode ∈ operation.modes) (op b1 b2 : Byte) :
    (assemble operation mode op b1 b2).mode = mode := by
  cases operation
  case inx | iny | dex | dey | bcc | bcs | beq | bne | bmi | bpl | bvc | bvs | pha | php | pla | plp | tax | tay | tsx |
      txa | txs | tya | clc | cld | cli | clv | sec | sed | sei | jsr | rts | brk | rti | nop =>
    rw [List.mem_singleton.1 h]; rfl
  all_goals exact operandOf_mode mode b1 b2

/-- The fetched instruction has a mode its mnemonic has (30_encoding.md R312). -/
theorem fetchInstr_mode_mem (s : State) : s.fetchInstr.mode ∈ s.fetchInstr.operation.modes := by
  have h := descriptor_mode_mem s.cfg (s.rd s.pc)
  rw [State.fetchInstr, decodeBytes, assemble_operation, assemble_mode h]
  exact h

theorem mode_ne_of_not_mem {o : Operand} {op : Operation} {m : Mode} (h : o.mode ∈ op.modes) (hm : m ∉ op.modes) :
    o.mode ≠ m := fun e => hm (e ▸ h)

/-- Every resolver but REL leaves what an operand is read from. -/
theorem readOperand_resolve_drop {o : Operand} (hr : o.mode ≠ .rel) (s : State) :
    readOperand o (resolve o (s.erase id Scratch.drop)) = readOperand o (resolve o s) := by
  cases o with
  | rel rr => exact absurd rfl hr
  | _ => rfl

/-- Every resolver but IMP and REL writes `addr_abs`. -/
theorem addrAbs_resolve_drop {o : Operand} (hi : o.mode ≠ .imp) (hr : o.mode ≠ .rel) (s : State) :
    (resolve o (s.erase id Scratch.drop)).scratch.addrAbs = (resolve o s).scratch.addrAbs := by
  cases o with
  | imp => exact absurd rfl hi
  | rel rr => exact absurd rfl hr
  | _ => rfl

theorem shiftTo_resolve_drop {o : Operand} (hr : o.mode ≠ .rel) (s : State) (v : Byte) (out : Bool) :
    ((resolve o (s.erase id Scratch.drop)).shiftTo o v out).erase id Scratch.drop =
      ((resolve o s).shiftTo o v out).erase id Scratch.drop := by
  cases o with
  | imp => rfl
  | rel rr => exact absurd rfl hr
  | _ => simp only [State.shiftTo, writeBack, State.wr_eq]; rfl

/-- No instruction with a mode its mnemonic has observes the transient fields: its resolver writes all it reads. -/
theorem exec_erase_drop {i : Instr} (hm : i.mode ∈ i.operation.modes) {s u v : State} (h : exec i s = .next u)
    (h' : exec i (s.erase id Scratch.drop) = .next v) : v.erase id Scratch.drop = u.erase id Scratch.drop := by
  cases i <;>
    (simp at h h'; refine runOperation_erase h h' ?_; dsimp only [Instr.mode, Instr.operand, Instr.operation] at hm)
  case adc | sbc | cmp | cpx | cpy | and | ora | eor | bit | lda | ldx | ldy =>
    rw [readOperand_resolve_drop (mode_ne_of_not_mem hm (by decide))]; rfl
  case asl | lsr | rol | ror =>
    have hr := mode_ne_of_not_mem (m := .rel) hm (by decide)
    rw [readOperand_resolve_drop hr]
    exact shiftTo_resolve_drop hr s _ _
  case inc | dec =>
    have hr := mode_ne_of_not_mem (m := .rel) hm (by decide)
    have ha := addrAbs_resolve_drop (mode_ne_of_not_mem hm (by decide)) hr s
    simp only [State.storeResult, State.wr_eq, ha, readOperand_resolve_drop hr]; rfl
  case sta | stx | sty | jmp =>
    have ha := addrAbs_resolve_drop (mode_ne_of_not_mem hm (by decide)) (mode_ne_of_not_mem hm (by decide)) s
    simp only [State.wr_eq, ha]; rfl
  case bcc | bcs | beq | bne | bmi | bpl | bvc | bvs => rw [State.branch_eq, State.branch_eq]; rfl
  case pla => rw [State.pla_eq, State.pla_eq]; rfl
  case pha | php => simp only [State.push, State.wr_eq]; rfl
  case jsr => simp only [State.pushWord, State.push, State.wr_eq]; rfl
  case brk => simp only [State.takeBreak, State.pushFrame, State.pushWord, State.push, State.wr_eq]; rfl
  all_goals rfl

/-- Settles O58: a step is blind to the transient fields, because every instruction the decoder gives is. -/
theorem transientFieldsAreNeverObserved : Obligations.TransientFieldsAreNeverObserved := by
  intro s t s' h hs
  have hstep : Blind (State.erase id Scratch.drop) step :=
    step_blind (fun _ => rfl) (fun _ => rfl) (fun u => exec_blind (exec_erase_drop (fetchInstr_mode_mem u)))
  exact hstep.same h hs

end Sys2Proof.Machine
end

section
/-! PROOF. The packed status byte (10_state.md R112-R114), the stack pointer (R106-R108) and the instructions that push
and pull one byte (46_stack.md). -/

namespace Sys2Proof.Machine

/-! ## The packed status byte -/

theorem getLsbD_one_shiftLeft {n k : Nat} (hk : k < 8) : (1#8 <<< n).getLsbD k = decide (n = k) := by
  have h := BitVec.getLsbD_twoPow (w := 8) n k
  rw [BitVec.twoPow] at h
  rw [h, Bool.eq_iff_iff]
  simp only [Bool.and_eq_true, decide_eq_true_eq]
  omega

/-- A byte with bits set one after another has the old bits and those that were set. -/
theorem getLsbD_foldl_setBits (p : FlagName → Bool) (pos : FlagName → Nat) (flags : List FlagName) (b : Byte) {k : Nat}
    (hk : k < 8) :
    (flags.foldl (fun b flag => if p flag then b ||| 1#8 <<< pos flag else b) b).getLsbD k =
      (b.getLsbD k || flags.any fun flag => p flag && decide (pos flag = k)) := by
  induction flags generalizing b with
  | nil => simp
  | cons flag flags ih =>
    rw [List.foldl_cons, ih]
    cases hp : p flag <;> simp [hp, getLsbD_one_shiftLeft hk, Bool.or_assoc]

theorem FlagName.mem_all (flag : FlagName) : flag ∈ FlagName.all := by cases flag <;> decide

theorem flagBit_lt (l : FlagLayout) (flag : FlagName) : flagBit l flag < 8 := by
  cases l <;> cases flag <;> decide

theorem flagBit_injective (l : FlagLayout) {p q : FlagName} (h : flagBit l p = flagBit l q) : p = q := by
  have hall : ∀ p ∈ FlagName.all, ∀ q ∈ FlagName.all, flagBit l p = flagBit l q → p = q := by cases l <;> decide
  exact hall p p.mem_all q q.mem_all h

/-- Every bit of the status byte is a flag's. -/
theorem exists_flagBit (l : FlagLayout) {k : Nat} (hk : k < 8) : ∃ flag, flagBit l flag = k := by
  have h : ∀ k < 8, ∃ flag ∈ FlagName.all, flagBit l flag = k := by cases l <;> decide
  obtain ⟨flag, -, hflag⟩ := h k hk
  exact ⟨flag, hflag⟩

/-- `Pack` puts each flag at its bit. -/
theorem Flags.pack_flagBit (f : Flags) (l : FlagLayout) (force : Bool) (flag : FlagName) :
    (f.pack l force).getLsbD (flagBit l flag) = f.packedBit force flag := by
  rw [Flags.pack, getLsbD_foldl_setBits _ _ _ _ (flagBit_lt l flag)]
  have hbit (q : FlagName) : decide (flagBit l q = flagBit l flag) = decide (q = flag) := by
    rw [decide_eq_decide]; exact ⟨flagBit_injective l, fun e => e ▸ rfl⟩
  simp only [hbit]
  cases flag <;> simp [FlagName.all]

theorem Flags.packedBit_false (f : Flags) (flag : FlagName) : f.packedBit false flag = f.get flag := by
  cases flag <;> rfl

theorem get_unpackFlags (l : FlagLayout) (b : Byte) (flag : FlagName) :
    (unpackFlags l b).get flag = b.getLsbD (flagBit l flag) := by
  cases flag <;> rfl

theorem Flags.ext_get {f g : Flags} (h : ∀ flag, f.get flag = g.get flag) : f = g :=
  Flags.ext (h .c) (h .z) (h .i) (h .d) (h .b) (h .v) (h .n) (h .u)

theorem unpack_pack (f : Flags) (l : FlagLayout) : unpackFlags l (f.pack l false) = f :=
  Flags.ext_get fun flag => by rw [get_unpackFlags, Flags.pack_flagBit, Flags.packedBit_false]

theorem pack_unpack (l : FlagLayout) (b : Byte) : (unpackFlags l b).pack l false = b := by
  refine BitVec.eq_of_getLsbD_eq fun k hk => ?_
  obtain ⟨flag, rfl⟩ := exists_flagBit l hk
  rw [Flags.pack_flagBit, Flags.packedBit_false, get_unpackFlags]

/-- Settles O40: the bit of each flag under each layout, and the two round trips. -/
theorem packedStatusFollowsTheLayout : Obligations.PackedStatusFollowsTheLayout := by
  intro f force b
  have hnmos := f.pack_flagBit .nmos force
  have hlisting := f.pack_flagBit .listing force
  refine ⟨?_, ?_, fun l => ⟨unpack_pack f l, pack_unpack l b⟩⟩
  · cases force <;>
      exact ⟨hnmos .n, hnmos .v, hnmos .u, hnmos .b, hnmos .d, hnmos .i, hnmos .z, hnmos .c⟩
  · cases force <;>
      exact ⟨hlisting .u, hlisting .n, hlisting .v, hlisting .b, hlisting .d, hlisting .i, hlisting .z, hlisting .c⟩

/-! ## The stack pointer -/

theorem stackAddr_eq_ofNat (sp : Byte) : stackAddr sp = BitVec.ofNat 16 (0x100 + sp.toNat) := by
  apply BitVec.eq_of_toNat_eq
  rw [toNat_stackAddr, BitVec.toNat_ofNat]
  have := sp.isLt
  omega

theorem State.push_eq_wr (s : State) (v : Byte) :
    s.push v = { s.wr (BitVec.ofNat 16 (0x100 + s.sp.toNat)) v with sp := s.sp - 1 } := by
  rw [State.push, stackAddr_eq_ofNat]

/-- A push writes in page 1 only. -/
theorem State.rd_push_outside (s : State) (v : Byte) {a : Word} (h : a.toNat < 0x100 ∨ 0x200 ≤ a.toNat) :
    (s.push v).rd a = s.rd a := by
  refine s.rd_push_other v fun e => ?_
  have := s.sp.isLt
  rw [e, toNat_stackAddr] at h
  omega

/-- Settles O41: the address of each push and pull, and the two ends of the page. -/
theorem stackPointerWrapsInItsPage : Obligations.StackPointerWrapsInItsPage := by
  intro s v
  have hpull : stackAddr (s.sp + 1) = BitVec.ofNat 16 (0x100 + (s.sp.toNat + 1) % 256) := by
    rw [stackAddr_eq_ofNat, BitVec.toNat_add]; rfl
  refine ⟨s.push_eq_wr v, rfl, congrArg s.rd hpull, s.pullByte_push v, by simp, fun a => s.rd_push_outside v, ?_, ?_⟩
  · intro hsp
    refine ⟨by rw [State.push_sp, hsp]; rfl, ?_⟩
    have h := s.rd_push_same v
    rwa [hsp] at h
  · intro hsp
    refine ⟨by rw [State.pulled_sp, hsp]; rfl, ?_⟩
    rw [State.pullByte, hsp]; rfl

/-! ## Pushing and pulling one byte -/

/-- The address and the new stack pointer of a push, in numbers. -/
theorem State.push_eq_wr_toNat (s : State) (v : Byte) :
    s.push v = { s.wr (BitVec.ofNat 16 (0x100 + s.sp.toNat)) v with sp := BitVec.ofNat 8 (s.sp.toNat + 255) } := by
  have hsp : s.sp - 1 = BitVec.ofNat 8 (s.sp.toNat + 255) := by bv_omega
  rw [State.push_eq_wr, hsp]

/-- Settles O36: both are a push in the common frame, PHP of the status packed with `B` and `U` forced. -/
theorem phaAndPhpPushOneByte : Obligations.PhaAndPhpPushOneByte := by
  refine ⟨by decide +kernel, by decide +kernel, fun s => ⟨?_, s.flags.pack s.cfg.flagLayout true, ?_, ?_⟩⟩
  · exact congrArg Host.Outcome.next ((resolve .imp s).push_eq_wr_toNat s.a)
  · exact congrArg Host.Outcome.next ((resolve .imp s).push_eq_wr_toNat _)
  · have h := s.flags.pack_flagBit s.cfg.flagLayout true
    cases hl : s.cfg.flagLayout with
    | nmos => rw [hl] at h; exact ⟨h .c, h .z, h .i, h .d, h .b, h .u, h .v, h .n⟩
    | listing => rw [hl] at h; exact ⟨h .c, h .z, h .i, h .d, h .b, h .v, h .n, h .u⟩

/-- PLA where the defect is configured away (46_stack.md R543). -/
theorem State.pla_of_no_defect {s : State} (h : s.cfg.plaZeroDefect = false) : s.pla = s.pullA := by
  simp [State.pla, h]

/-- Settles O37: without the defect PLA is a pull into `A` in the common frame. -/
theorem plaPullsTheAccumulator : Obligations.PlaPullsTheAccumulator := by
  refine ⟨by decide +kernel, fun s hd => ?_⟩
  exact congrArg Host.Outcome.next (State.pla_of_no_defect (s := resolve .imp s) hd)

end Sys2Proof.Machine
end

section
/-! PROOF. What an instruction leaves alone: the registers and flags whose rules do not list it as a writer
(10_state.md R102-R104, R110, R116). -/

namespace Sys2Proof.Machine

/-! ## The register frame -/

theorem exec_a {i : Instr} {s t : State} (h : exec i s = .next t) (hw : writesA i = false) : t.a = s.a := by
  cases i <;> (simp at h; obtain rfl := runOperation_next h)
  case adc | sbc | and | ora | eor | pla | lda | txa | tya => cases hw
  case asl o | lsr o | rol o | ror o =>
    have ho : o ≠ .imp := of_decide_eq_false hw
    cases o <;> simp_all [State.shiftTo, writeBack]
  all_goals simp

theorem exec_x {i : Instr} {s t : State} (h : exec i s = .next t) (hw : writesX i.operation = false) : t.x = s.x := by
  cases i <;> (simp at h; obtain rfl := runOperation_next h)
  case ldx | tax | tsx | inx | dex => simp [writesX, Instr.operation] at hw
  all_goals simp

theorem exec_y {i : Instr} {s t : State} (h : exec i s = .next t) (hw : writesY i.operation = false) : t.y = s.y := by
  cases i <;> (simp at h; obtain rfl := runOperation_next h)
  case ldy | tay | iny | dey => simp [writesY, Instr.operation] at hw
  all_goals simp

theorem exec_sp {i : Instr} {s t : State} (h : exec i s = .next t) (hw : writesSP i.operation = false) :
    t.sp = s.sp := by
  cases i <;> (simp at h; obtain rfl := runOperation_next h)
  case txs | pha | pla | php | plp | jsr | rts | brk | rti => simp [writesSP, Instr.operation] at hw
  all_goals simp

theorem exec_draws {i : Instr} {s t : State} (h : exec i s = .next t) (hi : i ≠ .pla) : t.draws = s.draws := by
  cases i <;> (simp at h; obtain rfl := runOperation_next h)
  case pla => exact absurd rfl hi
  all_goals simp

/-- Settles O55: one frame for each register, and what no instruction changes. -/
theorem onlyTheNamedRegistersChange : Obligations.OnlyTheNamedRegistersChange := by
  intro i s t h
  obtain ⟨hcfg, hphase, hinputs, -⟩ := exec_keeps h
  exact ⟨exec_a h, exec_x h, exec_y h, exec_sp h, hcfg, hphase, hinputs, exec_draws h⟩

/-! ## The flag frame -/

/-- `g` has the flags of `f`, but for the written ones. -/
def Flags.SameBut (written : List FlagName) (f g : Flags) : Prop := ∀ flag, flag ∉ written → g.get flag = f.get flag

/-- The frame flag by flag. -/
theorem Flags.sameBut_iff {written : List FlagName} {f g : Flags} :
    f.SameBut written g ↔
      (.c ∉ written → g.c = f.c) ∧ (.z ∉ written → g.z = f.z) ∧ (.i ∉ written → g.i = f.i) ∧
      (.d ∉ written → g.d = f.d) ∧ (.b ∉ written → g.b = f.b) ∧ (.v ∉ written → g.v = f.v) ∧
      (.n ∉ written → g.n = f.n) ∧ (.u ∉ written → g.u = f.u) := by
  refine ⟨fun h => ⟨h .c, h .z, h .i, h .d, h .b, h .v, h .n, h .u⟩, ?_⟩
  rintro ⟨hc, hz, hi, hd, hb, hv, hn, hu⟩ flag
  cases flag <;> assumption

theorem Flags.setZN_sameBut (f : Flags) (v : Byte) : f.SameBut [.z, .n] (f.setZN v) := by
  simp [Flags.sameBut_iff]

theorem Flags.ofSum_sameBut (f : Flags) (a m : Byte) (temp : Nat) : f.SameBut [.c, .z, .v, .n] (f.ofSum a m temp) := by
  simp [Flags.sameBut_iff, Flags.ofSum]

theorem Flags.ofCompare_sameBut (f : Flags) (r m : Byte) : f.SameBut [.c, .z, .n] (f.ofCompare r m) := by
  simp [Flags.sameBut_iff, Flags.ofCompare]

theorem Flags.ofShift_sameBut (f : Flags) (v : Byte) (out : Bool) : f.SameBut [.c, .z, .n] (f.ofShift v out) := by
  simp [Flags.sameBut_iff, Flags.ofShift]

theorem Flags.ofBitTest_sameBut (f : Flags) (a m : Byte) : f.SameBut [.z, .n, .v] (f.ofBitTest a m) := by
  simp [Flags.sameBut_iff, Flags.ofBitTest]

theorem State.pla_sameBut (s : State) : s.flags.SameBut [.z, .n] s.pla.flags := by
  simp [Flags.sameBut_iff]

theorem Flags.all_sameBut (f g : Flags) : f.SameBut FlagName.all g := fun flag h => absurd flag.mem_all h

/-- Every instruction keeps the flags its rule does not list under "Flags written". -/
theorem exec_flags {i : Instr} {s t : State} (h : exec i s = .next t) :
    s.flags.SameBut (writtenFlags i.operation) t.flags := by
  cases i <;> (simp at h; obtain rfl := runOperation_next h)
  case adc | sbc => exact Flags.ofSum_sameBut _ _ _ _
  case cmp | cpx | cpy => exact Flags.ofCompare_sameBut _ _ _
  case asl | lsr | rol | ror =>
    rw [State.addCycles_flags, State.shiftTo_flags]
    exact Flags.ofShift_sameBut _ _ _
  case bit => exact Flags.ofBitTest_sameBut _ _ _
  case pla => exact State.pla_sameBut (resolve .imp s)
  case plp | rti => exact Flags.all_sameBut _ _
  case inc | dec | inx | iny | dex | dey | and | ora | eor | lda | ldx | ldy | tax | tay | tsx | txa | tya =>
    exact Flags.setZN_sameBut _ _
  case clc | cld | cli | clv | sec | sed | sei | brk => simp [Flags.sameBut_iff, Instr.operation, writtenFlags]
  all_goals simp [Flags.SameBut]

/-- Settles O56: the frame of every instruction's flags. -/
theorem onlyTheNamedFlagsChange : Obligations.OnlyTheNamedFlagsChange := fun _ _ _ h => exec_flags h

end Sys2Proof.Machine
end

section
/-! PROOF. What a reset leaves and what the host may not do (10_state.md R125, R126; 70_reset_and_hazards.md R801,
R812). -/

namespace Sys2Proof.Machine

theorem step_reset {s : State} {rest : List HostInput} (hi : s.inputs = .reset :: rest) :
    step s = .next { s with inputs := rest }.hostReset := by
  rw [step, hostAction, hi]

theorem step_load {s : State} {bytes : List Byte} {rest : List HostInput} (hi : s.inputs = .load bytes :: rest) :
    step s = hostLoad bytes { s with inputs := rest } := by
  rw [step, hostAction, hi]

/-- Settles O14: the step is `Reset()` with the action taken off the list. -/
theorem resetDoesWhatTheRuleSays : Obligations.ResetDoesWhatTheRuleSays := fun _ _ hi => step_reset hi

/-- Settles O16: the reset vector lies in memory that lists nothing, so `pc` is 0x0000. -/
theorem stateResetIsAReset : Obligations.StateResetIsAReset := by
  refine ⟨fun s hm hc hd hi => ?_, rfl, rfl, rfl⟩
  have hrd (a : Word) : s.rd a = 0x00 := by simp [State.rd, hm, Memory.get, unlistedByte]
  have hpc : s.hostReset.pc = 0x0000 := by rw [State.hostReset_pc, hrd, hrd]; rfl
  ext1
  case pc => exact hpc
  all_goals simp [State.reset, hm, hc, hd, hi]

/-- Settles O18: each refusal from the phase and the host's action. -/
theorem hostActionsTheSpecRefuses : Obligations.HostActionsTheSpecRefuses := by
  refine ⟨fun s ws rest hp hi => ?_, fun s bytes rest hp hi => ?_, fun s bytes rest hp hi hlen => ?_⟩
  · obtain hi | hi := hi <;> simp only [step, hostAction, hi, hostTick, hp]
  · rw [step_load hi]
    simp only [hostLoad, hp]
  · have hfit : fitsBelowTop bytes.length = false := decide_eq_false (by rw [loadBase]; omega)
    rw [step_load hi]
    simp [hostLoad, hp, hfit]

end Sys2Proof.Machine
end

section
/-! PROOF. Memory (20_memory.md): the address map (R201), reads and writes on the bus (R205, R206), the canonical form,
the peripherals' part of a tick (R221, R222), and what an instruction leaves of memory (R211). -/

namespace Sys2Proof.Machine

/-! ## The address map -/

/-- Each region ends at or before the next one's base. -/
theorem memoryMap_rising : memoryMap.Pairwise fun r q => r.base + r.size ≤ q.base := by decide

/-- Of two regions that follow each other no address lies in both. -/
theorem Region.not_holds_both {r q : Region} (h : r.base + r.size ≤ q.base) (a : Nat) :
    ¬ (r.holds a = true ∧ q.holds a = true) := by
  simp only [Region.holds, Bool.and_eq_true, decide_eq_true_eq]
  omega

/-- Settles O21: the regions are disjoint because they follow each other in the map. -/
theorem addressMapIsTheFiveRegions : Obligations.AddressMapIsTheFiveRegions :=
  ⟨rfl, memoryMap_rising.imp Region.not_holds_both, rfl, isMapped_iff⟩

/-! ## Reading and writing on the bus -/

/-- A bus write changes nothing but memory. -/
theorem State.wr_keeps (s : State) (a : Word) (v : Byte) : s.wr a v = { s with mem := (s.wr a v).mem } := by
  ext <;> simp

/-- Settles O22: a mapped address by read after write and the write's frame, an unmapped one by the lost write. -/
theorem readGivesTheLastByteWritten : Obligations.ReadGivesTheLastByteWritten := by
  refine ⟨fun s a v ha => ?_, fun s a v ha => ?_⟩
  · exact ⟨s.rd_wr_same a v ha, fun b hb => s.rd_wr_other v hb, s.wr_keeps a v⟩
  · exact ⟨s.wr_unmapped a v ha, s.rd_unmapped a ha⟩

/-! ## The canonical form -/

namespace Memory

/-- A cell of a rising list is what the list holds at its address. -/
theorem get_of_mem {m : List Host.Cell} (hm : m.Pairwise fun c d => c.1 < d.1) {a : Nat} {v : Byte} (h : (a, v) ∈ m) :
    get m a = v := by
  induction m with
  | nil => cases h
  | cons c m ih =>
    obtain ⟨hc, hm⟩ := List.pairwise_cons.1 hm
    obtain rfl | h := List.mem_cons.1 h
    · simp [get]
    · rw [get, if_neg (Nat.ne_of_lt (hc _ h)), ih hm h]

/-- A byte that differs from what an unlisted address reads as is listed. -/
theorem mem_of_get {m : List Host.Cell} {a : Nat} {v : Byte} (h : get m a = v) (hv : v ≠ unlistedByte) :
    (a, v) ∈ m := by
  induction m with
  | nil => exact absurd h.symm hv
  | cons c m ih =>
    obtain ⟨k, w⟩ := c
    rw [get] at h
    split at h
    · next hk => rw [hk, h]; exact List.mem_cons_self
    · exact List.mem_cons_of_mem _ (ih h)

/-- Rising lists with the same cells are the same list. -/
theorem eq_of_rising {m n : List Host.Cell} (hm : m.Pairwise fun c d => c.1 < d.1)
    (hn : n.Pairwise fun c d => c.1 < d.1) (h : ∀ c, c ∈ m ↔ c ∈ n) : m = n := by
  have nodup {l : List Host.Cell} (hl : l.Pairwise fun c d => c.1 < d.1) : l.Nodup :=
    hl.imp fun hcd e => Nat.ne_of_lt hcd (congrArg Prod.fst e)
  refine ((List.perm_ext_iff_of_nodup (nodup hm) (nodup hn)).2 h).eq_of_pairwise (fun c d _ _ hcd hdc => ?_) hm hn
  exact absurd hcd (Nat.lt_asymm hdc)

end Memory

/-- The cells of a canonical memory are the mapped addresses that do not read as an unlisted one does. -/
theorem State.mem_iff_rd {s : State} (hs : Memory.wf s.mem) {a : Nat} {v : Byte} :
    (a, v) ∈ s.mem ↔ isMapped a = true ∧ v ≠ unlistedByte ∧ s.rd (BitVec.ofNat 16 a) = v := by
  obtain ⟨hrising, hcells⟩ := hs
  have hrd (ha : isMapped a = true) : s.rd (BitVec.ofNat 16 a) = Memory.get s.mem a := by
    have hlt : a < 2 ^ 16 := by have := (isMapped_iff a).1 ha; omega
    rw [State.rd, BitVec.toNat_ofNat, Nat.mod_eq_of_lt hlt, if_pos ha]
  refine ⟨fun h => ?_, fun ⟨ha, hv, h⟩ => ?_⟩
  · obtain ⟨hv, ha⟩ := hcells _ h
    exact ⟨ha, hv, (hrd ha).trans (Memory.get_of_mem hrising h)⟩
  · exact Memory.mem_of_get ((hrd ha).symm.trans h) hv

/-- Settles O23: the bytes that can be read determine the cells of a canonical memory, and the cells their order. -/
theorem writeKeepsMemoryCanonical : Obligations.WriteKeepsMemoryCanonical := by
  refine ⟨State.wr_wf, fun s t hs ht h => Memory.eq_of_rising hs.1 ht.1 fun ⟨a, v⟩ => ?_⟩
  rw [State.mem_iff_rd hs, State.mem_iff_rd ht, h]

/-! ## The peripherals' part of a tick -/

/-- The peripherals' writes change nothing but memory. -/
theorem State.windowWrites_keeps (s : State) (ws : List WindowWrite) :
    s.windowWrites ws = { s with mem := (s.windowWrites ws).mem } := by
  ext <;> simp

/-- The peripherals write after all else that a tick does (20_memory.md R221). -/
theorem busTick_windowWrites {s t : State} (h : busTick [] s = .next t) (ws : List WindowWrite) :
    busTick ws s = .next (t.windowWrites ws) := by
  obtain ⟨hc, u, hu, rfl⟩ | ⟨hc, rfl⟩ := busTick_cases h
  · rw [busTick, if_pos hc, fetchExecute, hu]; rfl
  · rw [busTick, if_neg hc]; rfl

/-- Settles O20: the tick with the writes is the tick without them, and then the writes. -/
theorem peripheralsWriteAfterTheCpuAndOnlyInTheirWindows :
    Obligations.PeripheralsWriteAfterTheCpuAndOnlyInTheirWindows := by
  intro s t0 ws rest hp h
  have hstep (writes : List WindowWrite) :
      step { s with inputs := .tick writes :: rest } = busTick writes { s with inputs := rest } :=
    step_tick (s := { s with inputs := .tick writes :: rest }) hp (.inl rfl)
  rw [hstep] at h
  refine ⟨t0.windowWrites ws, ?_, t0.windowWrites_keeps ws, t0.rd_windowWrites ws,
    fun _ => t0.rd_windowWrites_other ws⟩
  rw [hstep]
  exact busTick_windowWrites h ws

/-! ## The memory frame of an instruction -/

/-- Every instruction keeps the bytes outside the addresses it stores to. -/
theorem exec_rd {i : Instr} {s t : State} (h : exec i s = .next t) {a : Word} (ha : a ∉ storedTo i s) :
    t.rd a = s.rd a := by
  cases i <;> (simp at h; obtain rfl := runOperation_next h)
  case inc o | dec o =>
    exact State.rd_storeResult_other (resolve o s) _ (by simpa [storedTo] using ha)
  case asl o | lsr o | rol o | ror o =>
    refine State.rd_shiftTo_other (resolve o s) o _ _ ?_
    by_cases ho : o = .imp
    · exact .inl ho
    · exact .inr (by simpa [storedTo, ho] using ha)
  case sta o | stx o | sty o =>
    exact State.rd_wr_other (resolve o s) _ (by simpa [storedTo] using ha)
  case pha | php => exact State.rd_push_other (resolve .imp s) _ (by simpa [storedTo] using ha)
  case jsr target =>
    obtain ⟨h₁, h₂⟩ : a ≠ stackAddr s.sp ∧ a ≠ stackAddr (s.sp - 1) := by simpa [storedTo] using ha
    exact State.rd_pushWord_other (resolve (.abs target) s) _ h₁ h₂
  case brk =>
    obtain ⟨h₁, h₂, h₃⟩ : a ≠ stackAddr s.sp ∧ a ≠ stackAddr (s.sp - 1) ∧ a ≠ stackAddr (s.sp - 1 - 1) := by
      simpa [storedTo, BitVec.sub_sub] using ha
    obtain ⟨-, -, -, hother⟩ := (resolve .imp s).rd_pushFrame ((resolve .imp s).pc + 1)
    exact hother a h₁ h₂ h₃
  all_goals exact State.rd_congr (by simp) a

/-- Settles O54: the frame of every instruction's memory. -/
theorem onlyTheStoredAddressesChange : Obligations.OnlyTheStoredAddressesChange := fun _ _ _ h _ ha => exec_rd h ha

end Sys2Proof.Machine
end

section
/-! PROOF. The encoding (30_encoding.md): the dispatch table is complete, decoding fails only where bytes run out, and
decode and encode are inverse to each other. -/

namespace Sys2Proof

open Machine

/-! ## The dispatch table -/

/-- A documented row is the descriptor of its opcode, whatever the configuration (R310). -/
theorem descriptor_of_row {op : Byte} {d : Descriptor} (h : opcodeMap.getD op.toNat none = some d) (cfg : Cfg) :
    descriptor cfg op = d := by
  unfold descriptor
  rw [h]

theorem descriptor_of_illegal {op : Byte} (h : op ∈ illegalOpcodes) (cfg : Cfg) :
    descriptor cfg op = ⟨.illegal, cfg.illegalMode op, (cfg.illegalCyclesOf op).val⟩ := by
  obtain ⟨-, -, -, -, -, -, -, -, hop⟩ | ⟨-, -, hd⟩ := descriptor_cases cfg op
  · exact absurd h hop
  · exact hd

theorem documented_count :
    ((List.range 256).filter fun n => !illegalOpcodes.contains (BitVec.ofNat 8 n)).length = 151 := by decide +kernel

/-- Settles O1: the two kinds of descriptor, one for each kind of opcode. -/
theorem dispatchTableIsComplete : Obligations.DispatchTableIsComplete := by
  refine ⟨by decide, documented_count, fun cfg op => ?_⟩
  obtain ⟨d, hrow, hd, hop, -, hmin, hmax, -, hdoc⟩ | ⟨-, hill, hd⟩ := descriptor_cases cfg op
  case inl =>
    rw [hd]
    exact ⟨by omega, fun h => absurd h hdoc, fun _ => ⟨hop, hmin, hmax, descriptor_of_row hrow⟩, rfl⟩
  case inr =>
    rw [hd]
    exact ⟨(cfg.illegalCyclesOf op).property, fun _ => rfl, fun h => absurd hill h, rfl⟩

/-! ## Decoding a list of bytes -/

/-- Too few operand bytes: the decoder says how many are missing (R304). -/
theorem decode_short {cfg : Cfg} {op : Byte} {bytes : List Byte}
    (h : bytes.length < (descriptor cfg op).mode.operandBytes) :
    decode cfg (op :: bytes) = .error (.truncated ((descriptor cfg op).mode.operandBytes - bytes.length)) := by
  rcases bytes with _ | ⟨b1, _ | ⟨b2, rest⟩⟩
  case nil =>
    obtain ⟨n, hb⟩ := Nat.exists_eq_add_of_le' h
    simp [decode, hb]
  case cons.nil =>
    obtain ⟨n, hb⟩ := Nat.exists_eq_add_of_le' h
    simp [decode, hb]
  case cons.cons =>
    have hle := operandBytes_le_two (descriptor cfg op).mode
    simp only [List.length_cons] at h
    omega

/-- Enough operand bytes: the instruction they give, and the bytes after them (R304). A byte the mode does not take is
not looked at, so that 0 may stand for one that is not there. -/
theorem decode_long {cfg : Cfg} {op : Byte} {bytes : List Byte}
    (h : (descriptor cfg op).mode.operandBytes ≤ bytes.length) :
    decode cfg (op :: bytes) = .ok (decodeBytes cfg op (bytes.getD 0 0) (bytes.getD 1 0),
      bytes.drop (descriptor cfg op).mode.operandBytes) := by
  have hm := descriptor_mode_mem cfg op
  have hle := operandBytes_le_two (descriptor cfg op).mode
  rcases hb : (descriptor cfg op).mode.operandBytes with _ | _ | _ | n
  case zero =>
    simp only [decode, decodeBytes, hb, assemble_no_bytes hm hb op (bytes.getD 0 0), List.drop_zero]
  case succ.zero =>
    obtain ⟨b1, rest, rfl⟩ := List.exists_cons_of_length_pos (by omega : 0 < bytes.length)
    simp only [decode, decodeBytes, hb, assemble_one_byte hm hb op _ (List.getD _ 1 0), List.drop_succ_cons,
      List.drop_zero, List.getD_cons_zero]
  case succ.succ.zero =>
    rcases bytes with _ | ⟨b1, _ | ⟨b2, rest⟩⟩
    case cons.cons => simp [decode, hb]
    all_goals simp [hb] at h
  case succ.succ.succ => omega

/-- Settles O4: too few operand bytes or enough. -/
theorem decodeErrorsOnlyWhenBytesRunOut : Obligations.DecodeErrorsOnlyWhenBytesRunOut := by
  intro cfg op bytes
  refine ⟨rfl, ?_⟩
  split
  case isTrue h => exact decode_short h
  case isFalse h => exact ⟨_, decode_long (Nat.le_of_not_lt h)⟩

/-- Settles O5: eleven words, each decoded through the opcode map. -/
theorem writtenOutWordsDecode : Obligations.WrittenOutWordsDecode :=
  ⟨rfl, rfl, rfl, rfl, rfl, rfl, rfl, rfl, rfl, rfl, rfl⟩

/-! ## Operand forms and their bytes -/

theorem Operand.bytes_length (o : Operand) : o.bytes.length = o.mode.operandBytes := by
  cases o <;> rfl

/-- No bit of the operand bytes is dropped (R301, R302). -/
theorem operandOf_bytes (mode : Mode) (b1 b2 : Byte) :
    (operandOf mode b1 b2).bytes = [b1, b2].take mode.operandBytes := by
  cases mode <;> simp [operandOf, Operand.bytes, Mode.operandBytes]

/-- An operand form is read back from its bytes, whatever follows them (R301, R302). -/
theorem operandOf_of_bytes (o : Operand) (rest : List Byte) :
    operandOf o.mode ((o.bytes ++ rest).getD 0 0) ((o.bytes ++ rest).getD 1 0) = o := by
  cases o <;> simp [operandOf, Operand.bytes, Operand.mode]

/-! ## Assembling an instruction -/

theorem assemble_operand {operation : Operation} {mode : Mode} (h : mode ∈ operation.modes) (op b1 b2 : Byte) :
    (assemble operation mode op b1 b2).operand = operandOf mode b1 b2 := by
  cases operation
  case inx | iny | dex | dey | bcc | bcs | beq | bne | bmi | bpl | bvc | bvs | pha | php | pla | plp | tax | tay | tsx |
      txa | txs | tya | clc | cld | cli | clv | sec | sed | sei | jsr | rts | brk | rti | nop =>
    rw [List.mem_singleton.1 h]; rfl
  all_goals rfl

/-- An instruction is assembled from its operation, its opcode and its operand. -/
theorem assemble_of_operand {i : Instr} {op b1 b2 : Byte} (hop : i.opcode = some op)
    (ho : operandOf i.mode b1 b2 = i.operand) : assemble i.operation i.mode op b1 b2 = i := by
  cases i
  case illegal op' o =>
    obtain rfl : op' = op := Option.some.inj hop
    exact congrArg (Instr.illegal op') ho
  case bcc | bcs | beq | bne | bmi | bpl | bvc | bvs =>
    obtain rfl := Operand.rel.inj ho
    rfl
  case jsr target => exact congrArg Instr.jsr (Operand.abs.inj ho)
  case inx | iny | dex | dey | pha | php | pla | plp | tax | tay | tsx | txa | txs | tya | clc | cld | cli | clv | sec |
      sed | sei | rts | brk | rti | nop => rfl
  all_goals exact congrArg _ ho

/-! ## The two tables -/

/-- An instruction is an ILLEGAL, or its opcode is the by-mnemonic table's and nothing but its mode is to be checked. -/
theorem Instr.illegal_or_documented (i : Instr) :
    (∃ op o, i = .illegal op o) ∨
    (i.operation ≠ .illegal ∧ i.opcode = i.operation.opcodes.lookup i.mode ∧ i.opcodeByteOk = true ∧
      ∀ cfg, i.fits cfg = true) := by
  cases i
  case illegal op o => exact .inl ⟨op, o, rfl⟩
  all_goals exact .inr ⟨nofun, rfl, rfl, fun _ => rfl⟩

theorem Instr.wf_iff (i : Instr) : i.wf = true ↔ i.mode ∈ i.operation.modes ∧ i.opcodeByteOk = true := by
  simp [Instr.wf]

/-- Each mode of a documented operation has an opcode in the by-mnemonic table, and the opcode map has the two at that
opcode (R312). -/
def Operation.inMap (operation : Operation) : Bool :=
  operation.modes.all fun mode =>
    (operation.opcodes.lookup mode).any fun op =>
      (opcodeMap.getD op.toNat none).any fun d => d.operation = operation ∧ d.mode = mode

theorem Operation.inMap_of_documented {operation : Operation} (h : operation ≠ .illegal) : operation.inMap = true := by
  cases operation
  case illegal => exact absurd rfl h
  all_goals decide +kernel

theorem row_of_mode {operation : Operation} {mode : Mode} (h : operation ≠ .illegal) (hm : mode ∈ operation.modes) :
    ∃ op base, operation.opcodes.lookup mode = some op ∧
      opcodeMap.getD op.toNat none = some ⟨operation, mode, base⟩ := by
  have hall := List.all_eq_true.1 (Operation.inMap_of_documented h) mode hm
  simp only [Option.any_eq_true, decide_eq_true_eq] at hall
  obtain ⟨op, hop, ⟨_, _, base⟩, hd, rfl, rfl⟩ := hall
  exact ⟨op, base, hop, hd⟩

/-- A well-formed instruction has an opcode, and there the descriptor with its operation and its mode. -/
theorem descriptor_of_wf {cfg : Cfg} {i : Instr} (hw : i.wf = true) (hf : i.fits cfg = true) :
    ∃ op base, i.opcode = some op ∧ descriptor cfg op = ⟨i.operation, i.mode, base⟩ := by
  obtain ⟨hm, hb⟩ := i.wf_iff.1 hw
  obtain ⟨op, o, rfl⟩ | ⟨hdoc, hcode, -, -⟩ := i.illegal_or_documented
  case inl =>
    have hmode : o.mode = cfg.illegalMode op := of_decide_eq_true hf
    refine ⟨op, (cfg.illegalCyclesOf op).val, rfl, ?_⟩
    rw [descriptor_of_illegal (List.contains_iff_mem.1 hb), ← hmode]
    rfl
  case inr =>
    obtain ⟨op, base, hop, hrow⟩ := row_of_mode hdoc hm
    exact ⟨op, base, hcode.trans hop, descriptor_of_row hrow cfg⟩

/-- Settles O2: the opcode's descriptor has the instruction's operation and mode, and the operand bytes give its
operand back. -/
theorem decodeOfEncodeGivesTheInstructionBack : Obligations.DecodeOfEncodeGivesTheInstructionBack := by
  intro cfg i rest hw hf
  obtain ⟨op, base, hop, hd⟩ := descriptor_of_wf hw hf
  have hlen : i.operand.bytes.length = (descriptor cfg op).mode.operandBytes := by
    rw [hd]; exact i.operand.bytes_length
  have henc : encode i ++ rest = op :: (i.operand.bytes ++ rest) := by simp [encode, hop]
  rw [henc, decode_long (by simp [hlen]), ← hlen, List.drop_left, decodeBytes, hd]
  rw [assemble_of_operand hop (operandOf_of_bytes i.operand rest)]

/-! ## Encoding what was decoded -/

/-- What is decoded at any opcode is well formed, fits the configuration and has that opcode (R310, R315). -/
theorem decodeBytes_wf_fits_opcode (cfg : Cfg) (op b1 b2 : Byte) :
    (decodeBytes cfg op b1 b2).wf = true ∧ (decodeBytes cfg op b1 b2).fits cfg = true ∧
      (decodeBytes cfg op b1 b2).opcode = some op := by
  obtain ⟨d, -, hd, hdoc, hm, -, -, hlookup, -⟩ | ⟨-, hill, hd⟩ := descriptor_cases cfg op
  case inl =>
    rw [decodeBytes, hd]
    have hop : (assemble d.operation d.mode op b1 b2).operation = d.operation := assemble_operation ..
    have hmode : (assemble d.operation d.mode op b1 b2).mode = d.mode := assemble_mode hm ..
    obtain ⟨op', o, hi⟩ | ⟨-, hcode, hbyte, hfits⟩ := (assemble d.operation d.mode op b1 b2).illegal_or_documented
    · exact absurd (hop.symm.trans (congrArg Instr.operation hi)) hdoc
    · rw [Instr.wf_iff, hcode, hop, hmode]
      exact ⟨⟨hm, hbyte⟩, hfits cfg, hlookup⟩
  case inr =>
    have hmode : (operandOf (cfg.illegalMode op) b1 b2).mode = cfg.illegalMode op := operandOf_mode ..
    have hm : (operandOf (cfg.illegalMode op) b1 b2).mode ∈ Operation.modes .illegal := by
      simpa only [hd, hmode] using descriptor_mode_mem cfg op
    have hi : decodeBytes cfg op b1 b2 = .illegal op (operandOf (cfg.illegalMode op) b1 b2) := by
      rw [decodeBytes, hd]
      rfl
    rw [hi, Instr.wf_iff]
    exact ⟨⟨hm, List.contains_iff_mem.2 hill⟩, decide_eq_true hmode, rfl⟩

/-- Settles O3: what is decoded has the opcode it was decoded at, and its operand is read from the operand bytes. -/
theorem encodeOfDecodeGivesTheBytesBack : Obligations.EncodeOfDecodeGivesTheBytesBack := by
  intro cfg op b1 b2
  obtain ⟨hw, hf, hop⟩ := decodeBytes_wf_fits_opcode cfg op b1 b2
  have ho : (decodeBytes cfg op b1 b2).operand = operandOf (descriptor cfg op).mode b1 b2 :=
    assemble_operand (descriptor_mode_mem cfg op) op b1 b2
  refine ⟨hw, hf, ?_⟩
  simp only [encode, hop, ho, operandOf_bytes, Nat.add_comm 1, List.take_succ_cons]

end Sys2Proof
end

section
/-! PROOF. The engine (40_engine.md): what a tick does (R400-R407), the cycles an instruction takes (R403, R405), and
the two operations that do nothing (R410, R411). -/

namespace Sys2Proof.Machine

/-! ## A running machine goes on (R407, 60_exceptions.md R700) -/

/-- A bus tick always answers a next state. -/
theorem busTick_next (ws : List WindowWrite) (s : State) : ∃ t, busTick ws s = .next t := by
  by_cases hc : s.cycles = 0
  · obtain ⟨t, ht⟩ := exec_next s.fetchInstr s.fetched
    exact ⟨t.endTick ws, by rw [busTick, if_pos hc, fetchExecute, ht]⟩
  · exact ⟨s.endTick ws, if_neg hc⟩

/-- A tick of a running machine leads to a running one. -/
theorem step_tick_running {s : State} {ws : List WindowWrite} {rest : List HostInput} (hp : s.phase = .running)
    (hi : s.inputs = .tick ws :: rest ∨ (s.inputs = [] ∧ ws = [] ∧ rest = [])) :
    ∃ t, step s = .next t ∧ t.phase = .running := by
  obtain ⟨t, ht⟩ := busTick_next ws { s with inputs := rest }
  obtain ⟨-, hphase, -⟩ := busTick_keeps ht
  exact ⟨t, (step_tick hp hi).trans ht, hphase.trans hp⟩

/-- Settles O10: every arm of `exec` answers a next state, hence every tick, and a reset does too. -/
theorem noFaultAndNoRefusalInARun : Obligations.NoFaultAndNoRefusalInARun := by
  refine ⟨exec_next, fun s hp hload => ?_⟩
  rcases hi : s.inputs with _ | ⟨ws | _ | bytes, rest⟩
  case nil => exact step_tick_running hp (.inr ⟨hi, rfl, rfl⟩)
  case cons.tick => exact step_tick_running hp (.inl hi)
  case cons.reset => exact ⟨_, step_reset hi, rfl⟩
  case cons.load => exact absurd hi (hload bytes rest)

/-! ## One tick -/

/-- Settles O6: the step is the bus tick that fetches, and what it fetches is what the bytes at `pc` decode to. -/
theorem stepRunsTheDecodedInstruction : Obligations.StepRunsTheDecodedInstruction := by
  intro s ws rest i tail hp hc hi hdec
  obtain rfl := fetchInstr_of_decode hdec
  rw [step_tick hp hi]
  exact if_pos hc

/-- Settles O7: the step is the bus tick that does not fetch. -/
theorem idleTickOnlyCountsDown : Obligations.IdleTickOnlyCountsDown := by
  intro s ws rest hp hc hi
  rw [step_tick hp hi]
  exact if_neg hc

/-! ## The ticks of an instruction -/

/-- Every descriptor charges at least one cycle (30_encoding.md R311). -/
theorem one_le_descriptor_base (cfg : Cfg) (op : Byte) : 1 ≤ (descriptor cfg op).base := by
  obtain ⟨-, -, h⟩ := dispatchTableIsComplete
  exact (h cfg op).1

/-- Settles O8: the first tick executes and charges at least the base count, and the others count down. -/
theorem instructionTakesItsCycleCount : Obligations.InstructionTakesItsCycleCount := by
  intro s t hp hc hi h
  obtain ⟨-, hphase, hinputs, hcycles⟩ := exec_keeps h
  have hpos : 1 ≤ t.cycles := Nat.le_trans (one_le_descriptor_base s.cfg (s.rd s.pc)) hcycles
  have hrun (k : Nat) (hk : k < t.cycles) : core.run (k + 1) s = .next { t with cycles := t.cycles - 1 - k } :=
    (run_step k (step_executes hp hi hc h)).trans
      (run_idle (s := { t with cycles := t.cycles - 1 }) (hphase.trans hp) (hinputs.trans hi) (Nat.le_sub_one_of_lt hk))
  refine ⟨hpos, ?_, hrun⟩
  have hlast := hrun (t.cycles - 1) (by omega)
  rwa [Nat.sub_add_cancel hpos, Nat.sub_self] at hlast

/-! ## The extra cycles -/

/-- The operations that report an extra cycle (30_encoding.md R313). -/
theorem reportsExtra_iff (op : Operation) :
    reportsExtra op = true ↔ op ∈ [Operation.adc, .and, .cmp, .eor, .lda, .ldx, .ldy, .ora, .sbc] := by
  cases op <;> decide

/-- What a branch charges, from the state its meaning starts in (45_branch.md R520). -/
theorem branch_resolve_cycles (rr : Byte) (s : State) (taken : Bool) :
    ((resolve (.rel rr) s).branch taken).cycles = s.cycles +
      if taken then (if hi8 (s.pc + 1 + sext16 rr) = hi8 (s.pc + 1) then 1 else 2) else 0 := by
  cases taken with
  | false => rfl
  | true => exact congrArg (s.cycles + ·) (ite_not ..)

/-- An instruction adds its page penalty and its extra cycles as a branch (40_engine.md R403). -/
theorem exec_cycles {i : Instr} {s t : State} (h : exec i s = .next t) :
    t.cycles = s.cycles + pagePenalty i.operation i.operand s + branchExtra i s := by
  cases i <;> (simp at h; obtain rfl := runOperation_next h)
  case bcc | bcs | beq | bne | bmi | bpl | bvc | bvs => exact branch_resolve_cycles _ s _
  all_goals simp [Instr.operation, Instr.operand, branchExtra]

/-- Settles O9: the page penalty operand form by operand form, where the operation reports it. -/
theorem cyclesChargedAreBasePlusExtras : Obligations.CyclesChargedAreBasePlusExtras := by
  refine ⟨by decide +kernel, fun i s t h => ?_⟩
  rw [exec_cycles h]
  congr 2
  simp only [pagePenalty, Bool.and_eq_true, reportsExtra_iff]
  by_cases hop : i.operation ∈ [Operation.adc, .and, .cmp, .eor, .lda, .ldx, .ldy, .ora, .sbc]
  case neg => simp only [hop, and_false, if_false]
  case pos =>
    simp only [hop, and_true, if_true]
    cases i.operand
    case abx | aby | izy => simp [crossesPage, indexBase, resolvedAddr, State.zeroPageWord]
    all_goals rfl

/-! ## The operations that do nothing -/

theorem pagePenalty_of_not_reports {op : Operation} (h : reportsExtra op = false) (o : Operand) (s : State) :
    pagePenalty op o s = 0 := by
  simp [pagePenalty, h]

/-- An operation that does nothing and reports no extra cycle answers the resolved state. -/
theorem runOperation_id {op : Operation} (h : reportsExtra op = false) (o : Operand) (s : State) :
    runOperation op o (fun t => t) s = .next (resolve o s) := by
  rw [runOperation, pagePenalty_of_not_reports h]
  rfl

/-- Settles O53: both are the operation that does nothing, in the common frame. -/
theorem nopAndIllegalOnlyPassTheirBytes : Obligations.NopAndIllegalOnlyPassTheirBytes := by
  refine ⟨by decide +kernel, fun cfg op h => descriptor_of_illegal h cfg, fun s op o => ⟨?_, ?_, rfl⟩⟩
  · exact runOperation_id rfl .imp s
  · exact runOperation_id rfl o s

end Sys2Proof.Machine
end

section
/-! PROOF. The end of a run (40_engine.md R408): a run is observed in the first of its states that is an end. -/

namespace Sys2Proof

open Machine

/-! ## The ends of a run, seen from its start -/

/-- Whether a run ends in `s`, the state after the first `k` of the host's actions in `inputs`. -/
def EndOfRun.ReachedAfter (e : EndOfRun) (k : Nat) (inputs : List HostInput) (s : State) : Prop :=
  match e with
  | .ticks n => s.phase = .running ∧ ticksAmong k inputs = n
  | .halt h => s.phase = .running ∧ s.cycles = 0 ∧ s.tickNext = true ∧ s.pc = h

theorem EndOfRun.reachedAfter_zero (e : EndOfRun) (s t : State) :
    e.ReachedAfter 0 s.inputs t ↔ e.reached t = true := by
  cases e with
  | ticks n =>
    have h0 : ticksAmong 0 s.inputs = 0 := by rw [ticksAmong]
    rw [EndOfRun.reached_ticks, EndOfRun.ReachedAfter, h0, eq_comm (a := 0)]
  | halt h => simp only [EndOfRun.reached_halt, EndOfRun.ReachedAfter, AtBoundary, and_assoc]

/-- Only a machine that runs takes a tick (10_state.md R126). -/
theorem running_of_tickNext {s t : State} (hs : step s = .next t) (ht : s.tickNext = true) : s.phase = .running := by
  obtain ⟨-, hp, -⟩ | ⟨rest, hi, -⟩ | ⟨bytes, rest, hi, -⟩ := step_cases hs
  · exact hp
  · simp [State.tickNext, hi] at ht
  · simp [State.tickNext, hi] at ht

/-- An end that is not reached yet is `k + 1` actions away from here when what is left of it is `k` actions away from
the next state. -/
theorem EndOfRun.reachedAfter_succ {e : EndOfRun} {s t : State} (hr : e.reached s = false) (hs : step s = .next t)
    (k : Nat) (u : State) :
    e.ReachedAfter (k + 1) s.inputs u ↔ (e.afterAction s).ReachedAfter k t.inputs u := by
  cases e with
  | halt h => rfl
  | ticks n =>
    obtain ⟨-, hinputs, -⟩ := configurationNeverChanges s t hs
    simp only [EndOfRun.ReachedAfter, EndOfRun.afterAction, ticksAmong_succ, hinputs]
    cases ht : s.tickNext with
    | false => simp
    | true =>
      have hn : n ≠ 0 := fun hn => by simp [EndOfRun.reached, running_of_tickNext hs ht, hn] at hr
      simp only [if_true]
      exact and_congr_right fun _ => by omega

/-- `t`, the state after the host's first `k` actions, is the first state of the run from `s` that is an end of it. -/
def EndOfRun.FirstAt (e : EndOfRun) (k : Nat) (s t : State) : Prop :=
  core.run k s = .next t ∧ e.ReachedAfter k s.inputs t ∧
    ∀ j, j < k → ∀ u, core.run j s = .next u → ¬ e.ReachedAfter j s.inputs u

/-- The first end is here exactly when the end is reached. -/
theorem EndOfRun.firstAt_zero {e : EndOfRun} {s t : State} : e.FirstAt 0 s t ↔ t = s ∧ e.reached s = true := by
  refine ⟨fun ⟨hrun, hend, _⟩ => ?_, ?_⟩
  · obtain rfl : s = t := Host.Outcome.next.inj hrun
    exact ⟨rfl, (e.reachedAfter_zero s s).1 hend⟩
  · rintro ⟨rfl, hr⟩
    exact ⟨rfl, (e.reachedAfter_zero t t).2 hr, fun j hj => absurd hj (Nat.not_lt_zero j)⟩

/-- Past an end there is no first one. -/
theorem EndOfRun.FirstAt.not_reached {e : EndOfRun} {k : Nat} {s t : State} (h : e.FirstAt (k + 1) s t) :
    e.reached s = false := by
  obtain ⟨-, -, hfirst⟩ := h
  exact Bool.eq_false_iff.2 fun hr => hfirst 0 k.succ_pos s rfl ((e.reachedAfter_zero s s).2 hr)

/-- From a state that is no end, the first end is the first one from the next state. -/
theorem EndOfRun.firstAt_succ {e : EndOfRun} {s v : State} (hr : e.reached s = false) (hs : step s = .next v)
    {k : Nat} {t : State} : e.FirstAt (k + 1) s t ↔ (e.afterAction s).FirstAt k v t := by
  simp only [EndOfRun.FirstAt, run_step _ hs, EndOfRun.reachedAfter_succ hr hs]
  refine and_congr_right fun _ => and_congr_right fun _ => ⟨fun h j hj u hu => ?_, fun h j hj u hu => ?_⟩
  · exact mt (EndOfRun.reachedAfter_succ hr hs j u).2 (h (j + 1) (Nat.succ_lt_succ hj) u ((run_step j hs).trans hu))
  · cases j with
    | zero =>
      obtain rfl : s = u := Host.Outcome.next.inj hu
      rw [EndOfRun.reachedAfter_zero, hr]
      exact Bool.false_ne_true
    | succ j =>
      exact mt (EndOfRun.reachedAfter_succ hr hs j u).1
        (h j (Nat.lt_of_succ_lt_succ hj) u ((run_step j hs).symm.trans hu))

/-! ## What is observed -/

theorem observed_of_firstAt {k : Nat} {e : EndOfRun} {s t : State} (h : e.FirstAt k s t) :
    observed k e s = some t := by
  induction k generalizing e s with
  | zero =>
    obtain ⟨rfl, hr⟩ := EndOfRun.firstAt_zero.1 h
    exact observed_of_reached hr 0
  | succ k ih =>
    have hr := h.not_reached
    obtain ⟨v, hs, -⟩ := run_succ_iff.1 h.1
    exact (observed_step hr hs k).trans (ih ((EndOfRun.firstAt_succ hr hs).1 h))

theorem exists_firstAt_of_observed {fuel : Nat} {e : EndOfRun} {s t : State} (h : observed fuel e s = some t) :
    ∃ k, k ≤ fuel ∧ e.FirstAt k s t := by
  induction fuel generalizing e s with
  | zero =>
    obtain ⟨hr, ht⟩ | ⟨-, k, v, hk, -⟩ := observed_cases h
    · exact ⟨0, le_rfl, EndOfRun.firstAt_zero.2 ⟨ht, hr⟩⟩
    · cases hk
  | succ fuel ih =>
    obtain ⟨hr, ht⟩ | ⟨hr, k, v, hk, hs, hv⟩ := observed_cases h
    · exact ⟨0, Nat.zero_le _, EndOfRun.firstAt_zero.2 ⟨ht, hr⟩⟩
    · obtain rfl : fuel = k := Nat.succ.inj hk
      obtain ⟨j, hj, hfirst⟩ := ih hv
      exact ⟨j + 1, Nat.succ_le_succ hj, (EndOfRun.firstAt_succ hr hs).2 hfirst⟩

/-- A run is observed in the first state that is an end of it, and nowhere else. -/
theorem observed_iff {fuel : Nat} {e : EndOfRun} {s t : State} :
    observed fuel e s = some t ↔ ∃ k, k ≤ fuel ∧ e.FirstAt k s t :=
  ⟨exists_firstAt_of_observed, fun ⟨_, hk, hfirst⟩ => observed_mono (observed_of_firstAt hfirst) hk⟩

/-- Settles O59: the first end is the first boundary at the halt address. -/
theorem runHaltsAtTheFirstBoundaryAtH : Obligations.RunHaltsAtTheFirstBoundaryAtH :=
  fun _ _ _ _ => observed_iff

/-! ## A launch (10_state.md R126, 70_reset_and_hazards.md R812) -/

/-- The run from `s` is observed after `k` actions of the host, in a running machine. -/
def EndOfRun.EndsAt (e : EndOfRun) (k : Nat) (s : State) : Prop :=
  ∃ t, core.run k s = .next t ∧ observed k e s = some t ∧ t.phase = .running

/-- One action before a run that is observed. -/
theorem EndOfRun.EndsAt.before {e : EndOfRun} {k : Nat} {s v : State} (hr : e.reached s = false)
    (hs : step s = .next v) (h : (e.afterAction s).EndsAt k v) : e.EndsAt (k + 1) s := by
  obtain ⟨t, hrun, hobs, hp⟩ := h
  exact ⟨t, (run_step k hs).trans hrun, (observed_step hr hs k).trans hobs, hp⟩

theorem EndOfRun.not_reached_of_constructed (e : EndOfRun) {s : State} (hp : s.phase = .constructed) :
    e.reached s = false :=
  Bool.eq_false_iff.2 fun hr => by simp [EndOfRun.running_of_reached hr] at hp

/-- What is no tick counts for nothing. -/
theorem EndOfRun.afterAction_of_not_tick {e : EndOfRun} {s : State} (h : s.tickNext = false) : e.afterAction s = e := by
  cases e with
  | ticks n => simp [EndOfRun.afterAction, h]
  | halt a => rfl

/-- Once the reset has happened, `n` ticks lead to the end of a run of `n` ticks. -/
theorem endsAt_of_ticks (n : Nat) {s : State} {ticks : List (List WindowWrite)} (hp : s.phase = .running)
    (hi : s.inputs = ticks.map HostInput.tick) : (EndOfRun.ticks n).EndsAt n s := by
  induction n generalizing s ticks with
  | zero => exact ⟨s, rfl, observed_of_reached ((EndOfRun.reached_ticks 0 s).2 ⟨hp, rfl⟩) 0, hp⟩
  | succ n ih =>
    have hr : (EndOfRun.ticks (n + 1)).reached s = false := by simp [EndOfRun.reached]
    obtain ⟨-, hgoes⟩ := noFaultAndNoRefusalInARun
    obtain ⟨v, hs, hv⟩ := hgoes s hp (by cases ticks <;> simp [hi])
    obtain ⟨-, hinputs, -⟩ := configurationNeverChanges s v hs
    have hnext : s.tickNext = true := by cases ticks <;> simp [State.tickNext, hi]
    refine .before hr hs ?_
    rw [EndOfRun.afterAction, if_pos hnext]
    exact ih hv (by rw [hinputs, hi, ← List.map_tail])

/-- Before the reset a program that fits is loaded. -/
theorem step_load_fits {s : State} {bytes : List Byte} {rest : List HostInput} (hp : s.phase = .constructed)
    (hi : s.inputs = .load bytes :: rest) (hlen : bytes.length ≤ 0xE000) :
    ∃ v, step s = .next v ∧ v.phase = .constructed ∧ v.inputs = rest := by
  have hfit : fitsBelowTop bytes.length = true := decide_eq_true (by rw [loadBase]; omega)
  refine ⟨{ s with inputs := rest }.writeBytes loadBase bytes, ?_, ?_, State.writeBytes_inputs ..⟩
  · rw [step_load hi]
    simp only [hostLoad, hp, hfit, if_true]
  · rw [State.writeBytes_phase]
    exact hp

/-- A launch reaches its end: the loads, the reset and the ticks. -/
theorem endsAt_of_launch (n : Nat) {s : State} {loads : List (List Byte)} {ticks : List (List WindowWrite)}
    (hp : s.phase = .constructed)
    (hi : s.inputs = loads.map HostInput.load ++ HostInput.reset :: ticks.map HostInput.tick)
    (hfit : ∀ bytes, bytes ∈ loads → bytes.length ≤ 0xE000) :
    (EndOfRun.ticks n).EndsAt (loads.length + 1 + n) s := by
  induction loads generalizing s with
  | nil =>
    rw [List.map_nil, List.nil_append] at hi
    rw [List.length_nil, Nat.zero_add, Nat.add_comm]
    refine .before (EndOfRun.not_reached_of_constructed _ hp) (step_reset hi) ?_
    rw [EndOfRun.afterAction_of_not_tick (by rw [State.tickNext, hi])]
    exact endsAt_of_ticks n rfl rfl
  | cons bytes loads ih =>
    rw [List.map_cons, List.cons_append] at hi
    obtain ⟨hbytes, hloads⟩ := List.forall_mem_cons.1 hfit
    obtain ⟨v, hs, hv, hrest⟩ := step_load_fits hp hi hbytes
    rw [List.length_cons, Nat.add_right_comm _ 1 n]
    refine .before (EndOfRun.not_reached_of_constructed _ hp) hs ?_
    rw [EndOfRun.afterAction_of_not_tick (by rw [State.tickNext, hi])]
    exact ih hv hrest hloads

/-- Settles O60: a launch action by action, and from any state the first state after `n` ticks. -/
theorem runOfTTicksEndsTTicksAfterItsReset : Obligations.RunOfTTicksEndsTTicksAfterItsReset := by
  refine ⟨fun s loads ticks n hp hi hfit => endsAt_of_launch n hp hi hfit, fun fuel n s t => ?_⟩
  rw [observed_iff]
  simp only [EndOfRun.FirstAt, EndOfRun.ReachedAfter, and_assoc, not_and]

end Sys2Proof
end

section
/-! PROOF. Addressing (41_addressing.md): which documented opcodes have the ZPY, REL and IND modes, the address each
resolver gives and the page crossing it reports (R420-R433), and the place that Operand and WriteBack share (R435,
R436). -/

namespace Sys2Proof.Machine

/-! ## The modes of a few documented opcodes -/

/-- ZPY is a mode of LDX and STX (R425), beside the no-op of an illegal opcode. -/
theorem zpy_mem_modes {operation : Operation} (hdoc : operation ≠ .illegal) (h : Mode.zpy ∈ operation.modes) :
    operation = .ldx ∨ operation = .stx := by
  revert h
  cases operation
  case illegal => exact absurd rfl hdoc
  all_goals decide

/-- IND is a mode of JMP (R431), beside the no-op of an illegal opcode. -/
theorem ind_mem_modes {operation : Operation} (hdoc : operation ≠ .illegal) (h : Mode.ind ∈ operation.modes) :
    operation = .jmp := by
  revert h
  cases operation
  case illegal => exact absurd rfl hdoc
  all_goals decide

/-- REL is the one mode of the branches (R426), and of no other documented operation. -/
theorem mode_eq_rel_iff {operation : Operation} {mode : Mode} (hdoc : operation ≠ .illegal)
    (h : mode ∈ operation.modes) :
    mode = .rel ↔ operation ∈ [Operation.bcc, .bcs, .beq, .bne, .bmi, .bpl, .bvc, .bvs] := by
  revert mode
  cases operation
  case illegal => exact absurd rfl hdoc
  all_goals decide

/-- A documented opcode is the one the by-mnemonic table has for its operation and its mode (30_encoding.md R312). -/
theorem descriptor_of_documented {op : Byte} (h : op ∉ illegalOpcodes) (cfg : Cfg) :
    (descriptor cfg op).operation ≠ .illegal ∧ (descriptor cfg op).mode ∈ (descriptor cfg op).operation.modes ∧
      (descriptor cfg op).operation.opcodes.lookup (descriptor cfg op).mode = some op := by
  obtain ⟨d, -, rfl, hdoc, hmem, -, -, hlookup, -⟩ | ⟨-, hill, -⟩ := descriptor_cases cfg op
  · exact ⟨hdoc, hmem, hlookup⟩
  · exact absurd hill h

theorem descriptor_mode_zpy_iff {op : Byte} (h : op ∉ illegalOpcodes) (cfg : Cfg) :
    (descriptor cfg op).mode = .zpy ↔ op = 0xB6 ∨ op = 0x96 := by
  constructor
  · intro hmode
    obtain ⟨hdoc, hmem, hlookup⟩ := descriptor_of_documented h cfg
    rw [hmode] at hmem hlookup
    obtain hop | hop := zpy_mem_modes hdoc hmem <;> rw [hop] at hlookup
    · exact .inl (Option.some.inj hlookup).symm
    · exact .inr (Option.some.inj hlookup).symm
  · rintro (rfl | rfl) <;> rfl

theorem descriptor_mode_ind_iff {op : Byte} (h : op ∉ illegalOpcodes) (cfg : Cfg) :
    (descriptor cfg op).mode = .ind ↔ op = 0x6C := by
  constructor
  · intro hmode
    obtain ⟨hdoc, hmem, hlookup⟩ := descriptor_of_documented h cfg
    rw [hmode] at hmem hlookup
    rw [ind_mem_modes hdoc hmem] at hlookup
    exact (Option.some.inj hlookup).symm
  · rintro rfl
    rfl

theorem descriptor_mode_rel_iff {op : Byte} (h : op ∉ illegalOpcodes) (cfg : Cfg) :
    (descriptor cfg op).mode = .rel ↔
      (descriptor cfg op).operation ∈ [Operation.bcc, .bcs, .beq, .bne, .bmi, .bpl, .bvc, .bvs] := by
  obtain ⟨hdoc, hmem, -⟩ := descriptor_of_documented h cfg
  exact mode_eq_rel_iff hdoc hmem

/-! ## The words that a resolver reads -/

theorem zext16_eq_ofNat (b : Byte) : zext16 b = BitVec.ofNat 16 b.toNat := (BitVec.ofNat_toNat 16 b).symm

/-- The second byte is in page zero too (R432, R433). -/
theorem State.zeroPageWord_eq (s : State) (p : Byte) :
    s.zeroPageWord p =
      hiLo (s.rd (BitVec.ofNat 16 ((p.toNat + 1) % 256))) (s.rd (BitVec.ofNat 16 p.toNat)) := by
  rw [State.zeroPageWord, zext16_add, zext16_eq_ofNat]
  rfl

theorem State.toNat_zeroPageWord (s : State) (p : Byte) :
    (s.zeroPageWord p).toNat =
      256 * (s.rd (BitVec.ofNat 16 ((p.toNat + 1) % 256))).toNat + (s.rd (BitVec.ofNat 16 p.toNat)).toNat := by
  rw [State.zeroPageWord_eq, toNat_hiLo, Nat.mul_comm]

theorem lo8_eq_ff_iff (p : Word) : lo8 p = 0xFF ↔ p.toNat % 256 = 255 := by
  rw [← BitVec.toNat_inj, toNat_lo8]
  rfl

/-- The first byte of the page whose last byte is at `p`. -/
theorem hiLo_hi8_zero {p : Word} (h : lo8 p = 0xFF) : hiLo (hi8 p) 0x00 = p - 0xFF := by
  apply BitVec.eq_of_toNat_eq
  have hlow := (lo8_eq_ff_iff p).1 h
  rw [toNat_hiLo, toNat_hi8, BitVec.toNat_sub]
  show p.toNat / 256 * 256 + 0 = (2 ^ 16 - 255 + p.toNat) % 2 ^ 16
  omega

/-- The page-wrap defect moves the high byte's address only (R431). -/
theorem State.pointerWord_eq (s : State) (p : Word) :
    s.pointerWord p = hiLo (s.rd (if lo8 p = 0xFF then p - 0xFF else p + 1)) (s.rd p) := by
  rw [State.pointerWord]
  split
  case isTrue h => rw [hiLo_hi8_zero h]
  case isFalse => rfl

/-! ## The page crossing -/

/-- An indexed form crosses a page when the indexed address, modulo 65536, has another high byte than its base (R428,
R429, R433). -/
theorem crossesPage_of_indexed {o : Operand} {s : State} {base : Word} {index : Byte}
    (hbase : indexBase o s = some base) (haddr : resolvedAddr o s = base + zext16 index) :
    crossesPage o s = decide ((base.toNat + index.toNat) % 65536 / 256 ≠ base.toNat / 256) := by
  simp only [crossesPage, hbase]
  rw [haddr, hi8_bne, add_zext16, BitVec.toNat_ofNat]

/-! ## The resolvers -/

/-- The implied form takes no operand byte and keeps `A` in `fetched` (R421). -/
theorem resolve_imp (s : State) : resolve .imp s = { s with scratch := { s.scratch with fetched := s.a } } := by
  rw [resolve, show Operand.imp.mode.operandBytes = 0 from rfl, BitVec.add_zero]
  rfl

/-- A form that sets `addr_abs` takes its operand bytes and sets nothing else (R422-R425, R427-R433). -/
theorem resolve_of_addr {o : Operand} {s : State} {n : Nat} {address : Word} (hn : o.mode.operandBytes = n)
    (hscratch : resolvedScratch o s = { s.scratch with addrAbs := resolvedAddr o s })
    (haddr : resolvedAddr o s = address) :
    resolve o s = { s with pc := s.pc + BitVec.ofNat 16 n, scratch := { s.scratch with addrAbs := address } } := by
  rw [resolve, hscratch, hn, haddr]

/-- Settles O24: the modes of the documented opcodes from the by-mnemonic table, and the resolvers mode by mode. -/
theorem resolversGiveTheirEffectiveAddresses : Obligations.ResolversGiveTheirEffectiveAddresses := by
  refine ⟨fun cfg op h => ⟨descriptor_mode_zpy_iff h cfg, descriptor_mode_ind_iff h cfg,
    descriptor_mode_rel_iff h cfg⟩, fun o s => ?_⟩
  cases o
  case imp => exact ⟨resolve_imp s, rfl⟩
  case rel | imm | abs => exact ⟨rfl, rfl⟩
  case zp0 zz => exact ⟨resolve_of_addr rfl rfl (zext16_eq_ofNat zz), rfl⟩
  case zpx zz => exact ⟨resolve_of_addr rfl rfl (zext16_add zz s.x), rfl⟩
  case zpy zz => exact ⟨resolve_of_addr rfl rfl (zext16_add zz s.y), rfl⟩
  case abx hhll => exact ⟨resolve_of_addr rfl rfl (add_zext16 hhll s.x), crossesPage_of_indexed rfl rfl⟩
  case aby hhll => exact ⟨resolve_of_addr rfl rfl (add_zext16 hhll s.y), crossesPage_of_indexed rfl rfl⟩
  case ind hhll =>
    simp only [← lo8_eq_ff_iff]
    exact ⟨resolve_of_addr rfl rfl (s.pointerWord_eq hhll), rfl⟩
  case izx zz =>
    have hlow : (zz + s.x).toNat = (zz.toNat + s.x.toNat) % 256 := BitVec.toNat_add zz s.x
    simp only [← hlow]
    exact ⟨resolve_of_addr rfl rfl (s.zeroPageWord_eq (zz + s.x)), rfl⟩
  case izy zz =>
    simp only [← State.toNat_zeroPageWord]
    exact ⟨resolve_of_addr rfl rfl (add_zext16 (s.zeroPageWord zz) s.y), crossesPage_of_indexed rfl rfl⟩

/-! ## Operand and WriteBack -/

/-- Operand reads memory at `addr_abs`, but in the accumulator and the immediate form (R435). -/
theorem readOperand_of_memory {o : Operand} (himp : o ≠ .imp) (himm : ∀ ii, o ≠ .imm ii) (t : State) :
    readOperand o t = t.rd t.scratch.addrAbs := by
  cases o
  case imp => exact absurd rfl himp
  case imm ii => exact absurd rfl (himm ii)
  all_goals rfl

/-- WriteBack writes memory at `addr_abs`, but in the accumulator form (R436). -/
theorem writeBack_of_memory {o : Operand} (himp : o ≠ .imp) (v : Byte) (t : State) :
    writeBack o v t = t.wr t.scratch.addrAbs v := by
  cases o
  case imp => exact absurd rfl himp
  all_goals rfl

/-- Settles O25: both go to `addr_abs`, where the resolver has left the effective address. -/
theorem operandAndWriteBackUseTheSamePlace : Obligations.OperandAndWriteBackUseTheSamePlace := by
  refine fun s v => ⟨rfl, rfl, fun _ => rfl, fun o himp himm => ?_⟩
  have haddr : (resolve o s).scratch.addrAbs = resolvedAddr o s := resolvedScratch_addrAbs o s
  rw [readOperand_of_memory himp himm, writeBack_of_memory himp, haddr]
  exact ⟨rfl, rfl⟩

end Sys2Proof.Machine
end

section
/-! PROOF. Arithmetic (42_arithmetic.md): ADC and SBC bit by bit (R450, R451) and in numbers (R449), the three compares
(R452-R454), and the increments and decrements of memory (R455, R456) and of the index registers (R457-R460). -/

namespace Sys2Proof.Machine

/-! ## The page penalty in the common frame -/

/-- An operation that reports an extra cycle takes the page penalty where its form crosses a page (40_engine.md R403). -/
theorem runOperation_of_reports {op : Operation} (h : reportsExtra op = true) (o : Operand) (f : State → State)
    (s : State) :
    runOperation op o f s = .next ((f (resolve o s)).addCycles (if crossesPage o s then 1 else 0)) := by
  rw [runOperation, pagePenalty, h, Bool.and_true]

/-- An operation that reports none answers what its meaning makes of the resolved state. -/
theorem runOperation_of_not_reports {op : Operation} (h : reportsExtra op = false) (o : Operand) (f : State → State)
    (s : State) : runOperation op o f s = .next (f (resolve o s)) := by
  rw [runOperation, pagePenalty_of_not_reports h]
  rfl

/-! ## Addition bit by bit (R450, R451) -/

theorem ofNat8_eq_zero_iff (n : Nat) : BitVec.ofNat 8 n = 0 ↔ n % 256 = 0 := by
  rw [← BitVec.toNat_inj, BitVec.toNat_ofNat]
  rfl

/-- The sign of a sum's low byte is bit 7 of the sum. -/
theorem sign_ofNat8 (n : Nat) : sign (BitVec.ofNat 8 n) = n.testBit 7 := by
  rw [sign, BitVec.getLsbD_ofNat]
  rfl

/-- The flags of an addition in the spec's own words. -/
theorem Flags.ofSum_eq (f : Flags) (a n : Byte) (temp : Nat) :
    f.ofSum a n temp = { f with
      c := decide (255 < temp)
      z := decide (temp % 256 = 0)
      v := decide (a.getLsbD 7 = n.getLsbD 7 ∧ temp.testBit 7 ≠ a.getLsbD 7)
      n := temp.testBit 7 } := by
  have hv : (sign a == sign n && temp.testBit 7 != sign a) =
      decide (a.getLsbD 7 = n.getLsbD 7 ∧ temp.testBit 7 ≠ a.getLsbD 7) := by
    simp only [Bool.decide_and, ne_eq, Bool.beq_eq_decide_eq, bne, sign, decide_not]
  rw [Flags.ofSum, hv, Flags.setZN, sign_ofNat8]
  simp only [ofNat8_eq_zero_iff]

theorem State.addWithCarry_eq (s : State) (n : Byte) :
    s.addWithCarry n =
      let temp := s.a.toNat + n.toNat + bit01 s.flags.c
      { s with
        a := BitVec.ofNat 8 temp
        flags := { s.flags with
          c := decide (255 < temp)
          z := decide (temp % 256 = 0)
          v := decide (s.a.getLsbD 7 = n.getLsbD 7 ∧ temp.testBit 7 ≠ s.a.getLsbD 7)
          n := temp.testBit 7 }
        scratch := { s.scratch with temp := (temp : Int) } } := by
  rw [State.addWithCarry, Flags.ofSum_eq]

/-- Settles O26: the addition of the operand in the common frame, with the page penalty. -/
theorem adcAddsTheOperandAndTheCarry : Obligations.AdcAddsTheOperandAndTheCarry := by
  refine ⟨by decide +kernel, fun o s => ?_⟩
  rw [exec_adc, runOperation_of_reports rfl, State.addWithCarry_eq]
  rfl

/-- Settles O27: the addition of the complement, which is the exclusive or with 0xFF. -/
theorem sbcAddsTheComplementAndTheCarry : Obligations.SbcAddsTheComplementAndTheCarry := by
  refine ⟨by decide +kernel, fun o s => ?_⟩
  have hnot : readOperand o (resolve o s) ^^^ 0xFF = ~~~ readOperand o (resolve o s) := BitVec.xor_allOnes
  rw [exec_sbc, runOperation_of_reports rfl, State.addWithCarry_eq, hnot]
  rfl

/-! ## Addition in numbers (R449) -/

theorem bit01_le_one (f : Bool) : bit01 f ≤ 1 := by cases f <;> decide

/-- A byte as a signed number: 256 less where its sign is set. -/
theorem toInt_byte (b : Byte) : b.toInt = (b.toNat : Int) - if sign b then 256 else 0 := by
  rw [sign_eq_decide, BitVec.toInt_eq_toNat_cond]
  simp only [decide_eq_true_eq]
  split <;> split <;> omega

theorem toNat_not_byte (b : Byte) : (~~~ b).toNat = 255 - b.toNat := BitVec.toNat_not

/-- The complement as a signed number. -/
theorem toInt_not_byte (b : Byte) : (~~~ b).toInt = -1 - b.toInt := by
  simp only [toInt_byte, sign_eq_decide, toNat_not_byte, decide_eq_true_eq]
  split <;> split <;> omega

/-- The carry and the new accumulator together are the unsigned sum. -/
theorem State.addWithCarry_unsigned (s : State) (n : Byte) :
    s.a.toNat + n.toNat + bit01 s.flags.c =
      256 * bit01 (s.addWithCarry n).flags.c + (s.addWithCarry n).a.toNat := by
  have hc := bit01_le_one s.flags.c
  rw [State.addWithCarry_eq]
  generalize bit01 s.flags.c = c at hc ⊢
  simp only [bit01, decide_eq_true_eq, BitVec.toNat_ofNat]
  split <;> omega

/-- `V` says that the signed sum is out of range. -/
theorem State.addWithCarry_v_iff (s : State) (n : Byte) :
    (s.addWithCarry n).flags.v = true ↔
      s.a.toInt + n.toInt + (bit01 s.flags.c : Int) < -128 ∨ 127 < s.a.toInt + n.toInt + (bit01 s.flags.c : Int) := by
  have hc := bit01_le_one s.flags.c
  rw [State.addWithCarry_flags]
  simp only [Flags.ofSum, ← sign_ofNat8, toInt_byte, sign_eq_decide, BitVec.toNat_ofNat, Bool.and_eq_true, beq_iff_eq,
    bne_iff_ne, ne_eq, decide_eq_decide, decide_eq_true_eq]
  split <;> split <;> omega

/-- Adding the complement is subtracting the operand and the borrow, which is 1 where `C` is 0. -/
theorem State.addWithCarry_not_a (s : State) (m : Byte) :
    ((s.addWithCarry (~~~ m)).a.toNat : Int) =
      ((s.a.toNat : Int) - (m.toNat : Int) - (1 - (bit01 s.flags.c : Int))) % 256 := by
  have hsum := s.addWithCarry_unsigned (~~~ m)
  rw [toNat_not_byte] at hsum
  omega

/-- `C` says that the subtraction borrows nothing. -/
theorem State.addWithCarry_not_c_iff (s : State) (m : Byte) :
    (s.addWithCarry (~~~ m)).flags.c = true ↔ m.toNat + (1 - bit01 s.flags.c) ≤ s.a.toNat := by
  have hc := bit01_le_one s.flags.c
  rw [State.addWithCarry_eq, toNat_not_byte]
  simp only [decide_eq_true_eq]
  omega

/-- `V` says that the signed difference is out of range. -/
theorem State.addWithCarry_not_v_iff (s : State) (m : Byte) :
    (s.addWithCarry (~~~ m)).flags.v = true ↔
      s.a.toInt - m.toInt - (1 - (bit01 s.flags.c : Int)) < -128 ∨
      127 < s.a.toInt - m.toInt - (1 - (bit01 s.flags.c : Int)) := by
  have hdiff : s.a.toInt + (~~~ m).toInt + (bit01 s.flags.c : Int) =
      s.a.toInt - m.toInt - (1 - (bit01 s.flags.c : Int)) := by
    rw [toInt_not_byte]
    omega
  rw [State.addWithCarry_v_iff, hdiff]

/-- Settles O28: the laws of the addition, and of the addition of the complement, in the common frame. -/
theorem additionAndSubtractionMeanWhatTheirFlagsSay : Obligations.AdditionAndSubtractionMeanWhatTheirFlagsSay := by
  refine ⟨fun o s t h => ?_, fun o s t h => ?_⟩
  · rw [exec_adc] at h
    obtain rfl := runOperation_next h
    exact ⟨(resolve o s).addWithCarry_unsigned _, (resolve o s).addWithCarry_v_iff _⟩
  · rw [exec_sbc] at h
    obtain rfl := runOperation_next h
    exact ⟨(resolve o s).addWithCarry_not_a _, (resolve o s).addWithCarry_not_c_iff _,
      (resolve o s).addWithCarry_not_v_iff _⟩

/-! ## Comparison (R452-R454) -/

/-- The flags of a comparison in numbers. -/
theorem Flags.ofCompare_eq (f : Flags) (r m : Byte) :
    f.ofCompare r m = { f with
      c := decide (m.toNat ≤ r.toNat)
      z := decide (r = m)
      n := ((256 + r.toNat - m.toNat) % 256).testBit 7 } := by
  have hz : r - m = 0 ↔ r = m := by bv_omega
  have hdiff : (256 + r.toNat - m.toNat) % 256 = (r - m).toNat := by bv_omega
  simp only [Flags.ofCompare, Flags.setZN, hz, hdiff]
  rfl

/-- Settles O30: the comparison with each register in the common frame, with the page penalty for CMP alone. -/
theorem comparesSetCarryZeroAndNegative : Obligations.ComparesSetCarryZeroAndNegative := by
  refine ⟨by decide +kernel, by decide +kernel, by decide +kernel, fun o s => ⟨?_, ?_, ?_⟩⟩
  · rw [exec_cmp, runOperation_of_reports rfl, Flags.ofCompare_eq]
    rfl
  · rw [exec_cpx, runOperation_of_not_reports rfl, Flags.ofCompare_eq]
    rfl
  · rw [exec_cpy, runOperation_of_not_reports rfl, Flags.ofCompare_eq]
    rfl

/-! ## One more and one less, modulo 256 (R455-R460) -/

theorem add_one_eq_ofNat (b : Byte) : b + 1 = BitVec.ofNat 8 (b.toNat + 1) := by bv_omega

theorem sub_one_eq_ofNat (b : Byte) : b - 1 = BitVec.ofNat 8 (b.toNat + 255) := by bv_omega

/-- `Z` and `N` of one more, from the byte before. -/
theorem Flags.setZN_add_one (f : Flags) (b : Byte) :
    f.setZN (b + 1) = { f with
      z := decide (b.toNat = 255), n := decide (127 ≤ b.toNat ∧ b.toNat < 255) } := by
  have hz : b + 1 = 0 ↔ b.toNat = 255 := by bv_omega
  have hn : 128 ≤ (b + 1).toNat ↔ 127 ≤ b.toNat ∧ b.toNat < 255 := by bv_omega
  simp only [Flags.setZN, sign_eq_decide, hz, hn]

/-- `Z` and `N` of one less, from the byte before. -/
theorem Flags.setZN_sub_one (f : Flags) (b : Byte) :
    f.setZN (b - 1) = { f with
      z := decide (b.toNat = 1), n := decide (b.toNat = 0 ∨ 129 ≤ b.toNat) } := by
  have hz : b - 1 = 0 ↔ b.toNat = 1 := by bv_omega
  have hn : 128 ≤ (b - 1).toNat ↔ b.toNat = 0 ∨ 129 ≤ b.toNat := by bv_omega
  simp only [Flags.setZN, sign_eq_decide, hz, hn]

/-- A result is stored at the effective address, and `Z` and `N` are its whether or not the write lands. -/
theorem State.storeResult_resolve (o : Operand) (s : State) (v : Byte) :
    (resolve o s).storeResult v =
      { (resolve o s).wr (resolvedAddr o s) v with flags := s.flags.setZN v } := by
  rw [State.storeResult, resolve_scratch, resolvedScratch_addrAbs, resolve_flags]

/-- Settles O31: the new byte is stored at the effective address, and its flags follow from the old one. -/
theorem incAndDecChangeTheByteByOne : Obligations.IncAndDecChangeTheByteByOne := by
  refine ⟨by decide +kernel, by decide +kernel, fun o s => ⟨?_, ?_⟩⟩
  · rw [exec_inc, runOperation_of_not_reports rfl, State.storeResult_resolve, Flags.setZN_add_one, add_one_eq_ofNat]
  · rw [exec_dec, runOperation_of_not_reports rfl, State.storeResult_resolve, Flags.setZN_sub_one, sub_one_eq_ofNat]

/-- Settles O32: each index register with the flags of one more or one less. -/
theorem indexIncrementsAndDecrementsWrap : Obligations.IndexIncrementsAndDecrementsWrap := by
  refine ⟨by decide +kernel, by decide +kernel, by decide +kernel, by decide +kernel, fun s => ⟨?_, ?_, ?_, ?_⟩⟩
  · rw [exec_inx, runOperation_of_not_reports rfl, State.setX, Flags.setZN_add_one, add_one_eq_ofNat]
    rfl
  · rw [exec_iny, runOperation_of_not_reports rfl, State.setY, Flags.setZN_add_one, add_one_eq_ofNat]
    rfl
  · rw [exec_dex, runOperation_of_not_reports rfl, State.setX, Flags.setZN_sub_one, sub_one_eq_ofNat]
    rfl
  · rw [exec_dey, runOperation_of_not_reports rfl, State.setY, Flags.setZN_sub_one, sub_one_eq_ofNat]
    rfl

end Sys2Proof.Machine
end

section
/-! PROOF. Logic (43_logic.md): AND, ORA and EOR (R480-R482) and BIT (R483). -/

namespace Sys2Proof.Machine

/-- An operation that writes `A` and may pay the page penalty: `Z` and `N` are the new accumulator's, and every other
flag stays. -/
theorem runOperation_setA {op : Operation} (h : reportsExtra op = true) (o : Operand) (value : State → Byte)
    (s : State) :
    runOperation op o (fun t => t.setA (value t)) s = .next { resolve o s with
      a := value (resolve o s)
      flags := { s.flags with
        z := decide (value (resolve o s) = 0), n := (value (resolve o s)).getLsbD 7 }
      cycles := s.cycles + (if crossesPage o s then 1 else 0) } := by
  rw [runOperation_of_reports h]
  rfl

/-- Settles O33: the three results written to `A` in the common frame, with the page penalty, and the bit test without
it. -/
theorem logicOperationsSetTheirFlags : Obligations.LogicOperationsSetTheirFlags := by
  refine ⟨by decide +kernel, by decide +kernel, by decide +kernel, by decide +kernel, fun o s => ⟨?_, ?_, ?_, ?_⟩⟩
  · rw [exec_and, runOperation_setA rfl, resolve_a]
  · rw [exec_ora, runOperation_setA rfl, resolve_a]
  · rw [exec_eor, runOperation_setA rfl, resolve_a]
  · rw [exec_bit, runOperation_of_not_reports rfl, Flags.ofBitTest, resolve_a, resolve_flags]
    rfl

end Sys2Proof.Machine
end

section
/-! PROOF. Shifts and rotates (44_shift.md R500-R503): the results and the bits shifted out in numbers, and the common
write-back of the four. -/

namespace Sys2Proof.Machine

/-! ## Results and bits shifted out, in numbers -/

theorem getLsbD_seven_eq_decide (m : Byte) : m.getLsbD 7 = decide (128 ≤ m.toNat) := sign_eq_decide m

theorem getLsbD_zero_eq_decide (m : Byte) : m.getLsbD 0 = decide (m.toNat % 2 = 1) := by
  rw [BitVec.getLsbD, Nat.testBit_zero]

theorem toNat_shiftLeft_one (m : Byte) : (m <<< 1).toNat = 2 * m.toNat % 256 := by
  rw [BitVec.toNat_shiftLeft, Nat.shiftLeft_eq, Nat.mul_comm]

theorem toNat_ushiftRight_one (m : Byte) : (m >>> 1).toNat = m.toNat / 2 := BitVec.toNat_ushiftRight m 1

theorem toNat_carryBit (c : Bool) : (carryBit c).toNat = if c then 1 else 0 := by cases c <;> rfl

/-- The carry enters bit 0, which the shift has left clear: the two are added (R502). -/
theorem toNat_shiftLeft_one_or_carryBit (m : Byte) (c : Bool) :
    ((m <<< 1) ||| carryBit c).toNat = (2 * m.toNat + if c then 1 else 0) % 256 := by
  have hdisjoint : (m <<< 1) &&& carryBit c = 0 := by
    cases c
    · exact BitVec.and_zero
    · revert m; decide
  rw [← BitVec.add_eq_or_of_and_eq_zero _ _ hdisjoint, BitVec.toNat_add, toNat_shiftLeft_one, toNat_carryBit]
  omega

/-- The carry enters bit 7, which the shift has left clear: the two are added (R503). -/
theorem toNat_carryBit_or_ushiftRight_one (m : Byte) (c : Bool) :
    ((carryBit c <<< 7) ||| (m >>> 1)).toNat = 128 * (if c then 1 else 0) + m.toNat / 2 := by
  have hdisjoint : (carryBit c <<< 7) &&& (m >>> 1) = 0 := by
    cases c
    · exact BitVec.zero_and
    · revert m; decide
  have hcarry : (carryBit c <<< 7).toNat = 128 * if c then 1 else 0 := by cases c <;> rfl
  have hm := m.isLt
  rw [← BitVec.add_eq_or_of_and_eq_zero _ _ hdisjoint, BitVec.toNat_add, hcarry, toNat_ushiftRight_one]
  split <;> omega

/-! ## The common write-back -/

/-- Writing a result back neither reads nor writes the flags, so setting them first or last is the same. -/
theorem writeBack_with_flags (o : Operand) (v : Byte) (s : State) (f : Flags) :
    writeBack o v { s with flags := f } = { writeBack o v s with flags := f } := by
  cases o
  case imp => rfl
  all_goals simp only [writeBack, State.wr_eq]

/-- A shift whose result is `n` as a number: `n` is written back, `C` is the bit shifted out, `Z` and `N` are `n`'s. -/
theorem runOperation_shiftTo {op : Operation} (h : reportsExtra op = false) {o : Operand} {value : State → Byte}
    {out : State → Bool} {s : State} {n : Nat} (hv : (value (resolve o s)).toNat = n) :
    runOperation op o (fun t => t.shiftTo o (value t) (out t)) s =
      .next { writeBack o (BitVec.ofNat 8 n) (resolve o s) with
        flags := { s.flags with c := out (resolve o s), z := decide (n = 0), n := decide (128 ≤ n) } } := by
  have hzero : value (resolve o s) = 0 ↔ (value (resolve o s)).toNat = 0 := BitVec.toNat_inj.symm
  subst hv
  rw [runOperation_of_not_reports h, State.shiftTo, writeBack_with_flags, BitVec.ofNat_toNat, BitVec.setWidth_eq]
  simp only [Flags.ofShift, Flags.setZN, sign_eq_decide, hzero, resolve_flags]

/-- Settles O34: the four results and bits shifted out in numbers, written back in the common frame. -/
theorem shiftsAndRotatesMoveOneBitThroughCarry : Obligations.ShiftsAndRotatesMoveOneBitThroughCarry := by
  refine ⟨by decide +kernel, by decide +kernel, by decide +kernel, by decide +kernel, fun o s => ⟨?_, ?_, ?_, ?_⟩⟩
  · rw [exec_asl, runOperation_shiftTo rfl (toNat_shiftLeft_one _), getLsbD_seven_eq_decide]
  · rw [exec_lsr, runOperation_shiftTo rfl (toNat_ushiftRight_one _), getLsbD_zero_eq_decide]
  · rw [exec_rol, runOperation_shiftTo rfl (toNat_shiftLeft_one_or_carryBit _ _), getLsbD_seven_eq_decide]
    rfl
  · rw [exec_ror, runOperation_shiftTo rfl (toNat_carryBit_or_ushiftRight_one _ _), getLsbD_zero_eq_decide]
    rfl

end Sys2Proof.Machine
end

section
/-! PROOF. The eight branches (45_branch.md R520-R528): the target and the cost of R520 in numbers, and one law for the
eight. -/

namespace Sys2Proof.Machine

/-- A signed displacement wraps modulo 65536 in either direction. -/
theorem add_sext16 (w : Word) (b : Byte) : w + sext16 b = BitVec.ofInt 16 ((w.toNat : Int) + b.toInt) := by
  rw [BitVec.ofInt_add, BitVec.ofInt_natCast, BitVec.ofNat_toNat, BitVec.setWidth_eq]
  rfl

/-- Two addresses are on one page when their quotients by 256 are equal. -/
theorem hi8_eq_hi8_iff (a b : Word) : hi8 a = hi8 b ↔ a.toNat / 256 = b.toNat / 256 := by
  rw [← toNat_hi8, ← toNat_hi8, BitVec.toNat_inj]

/-- The displacement counts from the address of the instruction after the branch. -/
theorem branchTarget_resolve (rr : Byte) (s : State) :
    (resolve (.rel rr) s).branchTarget = BitVec.ofInt 16 (((s.pc + 1).toNat : Int) + rr.toInt) :=
  add_sext16 (s.pc + 1) rr

/-- What an operation that branches where `p` holds answers: the target and the cost of R520, or nothing but the address
of the next instruction. -/
theorem runOperation_branch {op : Operation} (h : reportsExtra op = false) {cond : State → Bool} {rr : Byte}
    {s : State} {p : Prop} [Decidable p] (hp : cond (resolve (.rel rr) s) = true ↔ p) :
    let target : Word := BitVec.ofInt 16 (((s.pc + 1).toNat : Int) + rr.toInt)
    runOperation op (.rel rr) (fun t => t.branch (cond t)) s =
      .next (if p then { resolve (.rel rr) s with
          pc := target
          cycles := s.cycles + (if target.toNat / 256 = (s.pc + 1).toNat / 256 then 1 else 2) }
        else resolve (.rel rr) s) := by
  intro target
  have hcost : (resolve (.rel rr) s).branchCost = if target.toNat / 256 = (s.pc + 1).toNat / 256 then 1 else 2 := by
    rw [State.branchCost, branchTarget_resolve, ite_not]
    exact if_congr (hi8_eq_hi8_iff ..) rfl rfl
  rw [runOperation_of_not_reports h, State.branch, hcost, branchTarget_resolve]
  exact congrArg _ (if_congr hp rfl rfl)

/-- Settles O35: the eight are one law, each under the flag it tests. -/
theorem branchesMovePcWhenTheirFlagSays : Obligations.BranchesMovePcWhenTheirFlagSays := by
  refine ⟨by decide +kernel, by decide +kernel, by decide +kernel, by decide +kernel, by decide +kernel,
    by decide +kernel, by decide +kernel, by decide +kernel, fun rr s => ⟨rfl, ?_, ?_, ?_, ?_, ?_, ?_, ?_, ?_⟩⟩
  · exact (exec_bcc rr s).trans (runOperation_branch rfl (iff_of_eq (Bool.not_eq_true' _)))
  · exact (exec_bcs rr s).trans (runOperation_branch rfl Iff.rfl)
  · exact (exec_beq rr s).trans (runOperation_branch rfl Iff.rfl)
  · exact (exec_bne rr s).trans (runOperation_branch rfl (iff_of_eq (Bool.not_eq_true' _)))
  · exact (exec_bmi rr s).trans (runOperation_branch rfl Iff.rfl)
  · exact (exec_bpl rr s).trans (runOperation_branch rfl (iff_of_eq (Bool.not_eq_true' _)))
  · exact (exec_bvc rr s).trans (runOperation_branch rfl (iff_of_eq (Bool.not_eq_true' _)))
  · exact (exec_bvs rr s).trans (runOperation_branch rfl Iff.rfl)

end Sys2Proof.Machine
end

section
/-! PROOF. PLA with the reference's defect (46_stack.md R544), and PLP (R545). -/

namespace Sys2Proof.Machine

/-! ## PLA with the reference's defect -/

/-- PLA where the defect is configured (46_stack.md R544). -/
theorem State.pla_of_defect {s : State} (h : s.cfg.plaZeroDefect = true) : s.pla = s.pullADefect := if_pos h

/-- A draw that masks `N` leaves one of the two values R544 allows. -/
theorem and_freeBit_eq_or (b : Bool) (k : Nat) :
    (b && Config.freeBit k) = b ∨ (b && Config.freeBit k) = false := by
  cases Config.freeBit k
  · exact .inr (Bool.and_false b)
  · exact .inl (Bool.and_true b)

/-- Settles O38: the witness for `N` is bit 7 of the pulled byte masked by the draw, one of the allowed two either way. -/
theorem plaWithTheDefectZeroesTheAccumulator : Obligations.PlaWithTheDefectZeroesTheAccumulator := by
  intro s hd
  refine ⟨sign s.pullByte && Config.freeBit s.draws, and_freeBit_eq_or _ _, ?_⟩
  exact congrArg Host.Outcome.next (State.pla_of_defect (s := resolve .imp s) hd)

/-! ## PLP -/

theorem unpackFlags_nmos (b : Byte) : unpackFlags .nmos b =
    ⟨b.getLsbD 0, b.getLsbD 1, b.getLsbD 2, b.getLsbD 3, b.getLsbD 4, b.getLsbD 6, b.getLsbD 7, b.getLsbD 5⟩ := rfl

theorem unpackFlags_listing (b : Byte) : unpackFlags .listing b =
    ⟨b.getLsbD 0, b.getLsbD 1, b.getLsbD 2, b.getLsbD 3, b.getLsbD 4, b.getLsbD 5, b.getLsbD 6, b.getLsbD 7⟩ := rfl

/-- PLP moves the stack pointer as a pull does and unpacks the pulled byte into the flags. -/
theorem exec_plp_eq_next (s : State) :
    exec .plp s = .next { resolve .imp s with
      sp := s.sp + 1
      flags := unpackFlags s.cfg.flagLayout (s.rd (stackAddr (s.sp + 1))) } := by
  rw [exec_plp, runOperation_of_not_reports rfl]
  rfl

/-- Settles O39: the flags are the pulled byte unpacked, bit by bit under each layout. -/
theorem plpLoadsAllEightFlags : Obligations.PlpLoadsAllEightFlags := by
  refine ⟨by decide +kernel, fun s => ?_⟩
  rw [exec_plp_eq_next]
  cases s.cfg.flagLayout with
  | nmos => rw [unpackFlags_nmos]
  | listing => rw [unpackFlags_listing]

end Sys2Proof.Machine
end

section
/-! PROOF. Loads, stores and transfers (47_load_store_transfer.md R559-R571): `Z` and `N` in numbers, and the store at
the effective address. -/

namespace Sys2Proof.Machine

/-- `Z` and `N` from a byte as a number (10_state.md R115). -/
theorem Flags.setZN_eq (f : Flags) (v : Byte) :
    f.setZN v = { f with z := decide (v.toNat = 0), n := decide (128 ≤ v.toNat) } := by
  have hz : v = 0 ↔ v.toNat = 0 := BitVec.toNat_inj.symm
  simp only [Flags.setZN, sign_eq_decide, hz]

/-- Settles O42: each load in the common frame, with the page penalty. -/
theorem loadsSetTheRegisterAndZeroNegative : Obligations.LoadsSetTheRegisterAndZeroNegative := by
  refine ⟨by decide +kernel, by decide +kernel, by decide +kernel, fun o s => ⟨?_, ?_, ?_⟩⟩
  · rw [exec_lda, runOperation_of_reports rfl, State.setA, Flags.setZN_eq]
    rfl
  · rw [exec_ldx, runOperation_of_reports rfl, State.setX, Flags.setZN_eq]
    rfl
  · rw [exec_ldy, runOperation_of_reports rfl, State.setY, Flags.setZN_eq]
    rfl

/-- An operation that stores a byte answers the resolved state with that byte at the effective address. -/
theorem runOperation_store {op : Operation} (h : reportsExtra op = false) (o : Operand) (value : State → Byte)
    (s : State) :
    runOperation op o (fun t => t.wr t.scratch.addrAbs (value t)) s =
      .next ((resolve o s).wr (resolvedAddr o s) (value (resolve o s))) := by
  rw [runOperation_of_not_reports h, resolve_scratch, resolvedScratch_addrAbs]

/-- Settles O43: the three are one store, each of its register. -/
theorem storesWriteTheRegisterAtTheEffectiveAddress : Obligations.StoresWriteTheRegisterAtTheEffectiveAddress := by
  refine ⟨by decide +kernel, by decide +kernel, by decide +kernel, fun o s => ⟨?_, ?_, ?_⟩⟩
  · exact (exec_sta o s).trans (runOperation_store rfl o State.a s)
  · exact (exec_stx o s).trans (runOperation_store rfl o State.x s)
  · exact (exec_sty o s).trans (runOperation_store rfl o State.y s)

/-- Settles O44: each transfer in the common frame, TXS alone without `Z` and `N`. -/
theorem transfersCopyARegister : Obligations.TransfersCopyARegister := by
  refine ⟨by decide +kernel, by decide +kernel, by decide +kernel, by decide +kernel, by decide +kernel,
    by decide +kernel, fun s => ⟨?_, ?_, ?_, ?_, ?_, ?_⟩⟩
  · rw [exec_tax, runOperation_of_not_reports rfl, State.setX, Flags.setZN_eq]
    rfl
  · rw [exec_tay, runOperation_of_not_reports rfl, State.setY, Flags.setZN_eq]
    rfl
  · rw [exec_tsx, runOperation_of_not_reports rfl, State.setX, Flags.setZN_eq]
    rfl
  · rw [exec_txa, runOperation_of_not_reports rfl, State.setA, Flags.setZN_eq]
    rfl
  · rw [exec_tya, runOperation_of_not_reports rfl, State.setA, Flags.setZN_eq]
    rfl
  · exact (exec_txs s).trans (runOperation_of_not_reports rfl ..)

end Sys2Proof.Machine
end

section
/-! PROOF. The seven flag instructions (48_flags.md R600-R606). -/

namespace Sys2Proof.Machine

/-- Settles O45: none of the seven reports an extra cycle, so each answers its one flag's write in the resolved
state. -/
theorem flagInstructionsWriteOneFlag : Obligations.FlagInstructionsWriteOneFlag := by
  refine ⟨by decide +kernel, by decide +kernel, by decide +kernel, by decide +kernel, by decide +kernel,
    by decide +kernel, by decide +kernel, fun s => ⟨?_, ?_, ?_, ?_, ?_, ?_, ?_⟩⟩
  · exact (exec_clc s).trans (runOperation_of_not_reports rfl ..)
  · exact (exec_cld s).trans (runOperation_of_not_reports rfl ..)
  · exact (exec_cli s).trans (runOperation_of_not_reports rfl ..)
  · exact (exec_clv s).trans (runOperation_of_not_reports rfl ..)
  · exact (exec_sec s).trans (runOperation_of_not_reports rfl ..)
  · exact (exec_sed s).trans (runOperation_of_not_reports rfl ..)
  · exact (exec_sei s).trans (runOperation_of_not_reports rfl ..)

end Sys2Proof.Machine
end

section
/-! PROOF. Jumps, the subroutine call and the break (49_jump_break.md): JMP, JSR and RTS (R620-R622, R629), BRK and RTI
(R630-R633), and the round trip of a break and the return from it (R634). -/

namespace Sys2Proof.Machine

/-! ## JMP -/

/-- JMP goes to what its resolver gives `addr_abs`. -/
theorem exec_jmp_eq_next (o : Operand) (s : State) :
    exec (.jmp o) s = .next { resolve o s with pc := resolvedAddr o s } := by
  rw [exec_jmp, runOperation_of_not_reports rfl, resolve_scratch, resolvedScratch_addrAbs]
  rfl

/-- Settles O46: the resolved address of each of the two forms, the pointer's word with the page-wrap defect. -/
theorem jumpGoesToTheResolvedAddress : Obligations.JumpGoesToTheResolvedAddress := by
  refine ⟨by decide +kernel, fun s p o => ⟨exec_jmp_eq_next (.abs p) s, ?_, exec_jmp_eq_next o s⟩⟩
  rw [← State.pointerWord_eq]
  exact exec_jmp_eq_next (.ind p) s

/-! ## The words on the stack -/

/-- Pushing a word moves `SP` two down and changes nothing else but memory. -/
theorem State.pushWord_keeps (s : State) (w : Word) :
    s.pushWord w = { s with sp := s.sp - 2, mem := (s.pushWord w).mem } := by
  ext1
  case sp => exact (s.pushWord_sp w).trans (BitVec.sub_sub ..)
  all_goals simp

/-- The two bytes that make a pulled word lie above `SP`, the low one first (R622). -/
theorem State.pullWord_eq (s : State) :
    s.pullWord = hiLo (s.rd (stackAddr (s.sp + 2))) (s.rd (stackAddr (s.sp + 1))) := by
  have hsp : s.sp + 1 + 1 = s.sp + 2 := BitVec.add_assoc ..
  rw [State.pullWord, State.pullByte, State.pullByte, State.pulled_sp, hsp, State.rd_pulled]

/-- What is pulled depends on memory and the stack pointer alone. -/
theorem State.pullWord_congr {s t : State} (hmem : s.mem = t.mem) (hsp : s.sp = t.sp) : s.pullWord = t.pullWord := by
  rw [State.pullWord_eq, State.pullWord_eq, hsp, State.rd_congr hmem, State.rd_congr hmem]

/-! ## JSR and RTS -/

/-- JSR pushes the address of its last byte and jumps. -/
theorem exec_jsr_eq_next (target : Word) (s : State) :
    exec (.jsr target) s = .next { (resolve (.abs target) s).pushWord (s.pc + 1) with pc := target } := by
  have hret : (resolve (.abs target) s).pc - 1 = s.pc + 1 := by
    show s.pc + 2 - 1 = s.pc + 1
    bv_omega
  rw [exec_jsr, runOperation_of_not_reports rfl, hret]
  rfl

/-- RTS goes to the address after the one it pulls. -/
theorem exec_rts_eq_next (s : State) :
    exec .rts s = .next { resolve .imp s with pc := s.pullWord + 1, sp := s.sp + 2 } :=
  (exec_rts s).trans (runOperation_of_not_reports rfl ..)

/-- Settles O47: the pushed word is on the stack, and nothing but `PC`, `SP` and those two bytes changes. -/
theorem jsrPushesTheAddressOfItsLastByte : Obligations.JsrPushesTheAddressOfItsLastByte := by
  refine ⟨by decide +kernel, fun s target => ⟨_, exec_jsr_eq_next target s, ?_, ?_, ?_, fun a h₁ h₂ => ?_⟩⟩
  · exact congrArg (fun t : State => { t with pc := target }) ((resolve (.abs target) s).pushWord_keeps (s.pc + 1))
  · exact (resolve (.abs target) s).rd_pushWord_hi (s.pc + 1)
  · exact (resolve (.abs target) s).rd_pushWord_lo (s.pc + 1)
  · exact (resolve (.abs target) s).rd_pushWord_other (s.pc + 1) h₁ h₂

/-- Settles O48: the pulled word byte by byte. -/
theorem rtsPullsTheAddressAndAddsOne : Obligations.RtsPullsTheAddressAndAddsOne := by
  refine ⟨by decide +kernel, fun s => ?_⟩
  rw [exec_rts_eq_next, State.pullWord_eq]

/-- Settles O49: RTS pulls the word that JSR pushed. -/
theorem rtsUndoesJsr : Obligations.RtsUndoesJsr := by
  intro s t v target h hmem hsp
  rw [exec_jsr_eq_next] at h
  obtain rfl := Host.Outcome.next.inj h
  have hret : v.pullWord = s.pc + 1 :=
    (State.pullWord_congr hmem hsp).trans ((resolve (.abs target) s).pullWord_pushWord (s.pc + 1))
  refine ⟨_, exec_rts_eq_next v, ?_, ?_, hmem⟩
  · show v.pullWord + 1 = s.pc + 2
    rw [hret]
    bv_omega
  · show v.sp + 2 = s.sp
    rw [hsp, State.pushWord_keeps]
    exact BitVec.sub_add_cancel ..

/-! ## BRK -/

/-- The implied form takes no operand byte. -/
theorem resolve_imp_pc (s : State) : (resolve .imp s).pc = s.pc := by rw [resolve_imp]

theorem exec_brk_eq_next (s : State) : exec .brk s = .next (resolve .imp s).takeBreak :=
  (exec_brk s).trans (runOperation_of_not_reports rfl ..)

/-- What taking a break changes beside memory. -/
theorem State.takeBreak_keeps (s : State) :
    s.takeBreak = { s with
      pc := s.brkVector
      sp := s.sp - 3
      flags := { s.flags with i := true }
      mem := s.takeBreak.mem } := by
  have hsp : s.sp - 1 - 1 - 1 = s.sp - 3 := by bv_omega
  ext1
  case pc => exact s.takeBreak_pc
  case sp => exact s.takeBreak_sp.trans hsp
  all_goals simp

/-- Settles O50: the break of the resolved state, with the frame of its return address on the stack. -/
theorem brkTakesTheBreak : Obligations.BrkTakesTheBreak := by
  refine ⟨by decide +kernel, fun s => ⟨_, exec_brk_eq_next s, (resolve .imp s).takeBreak_keeps, ?_⟩⟩
  have hframe := (resolve .imp s).rd_pushFrame (s.pc + 1)
  rw [resolve_sp, show s.sp - 1 - 1 = s.sp - 2 from BitVec.sub_sub ..] at hframe
  simp only [State.rd_takeBreak, resolve_imp_pc]
  exact hframe

/-! ## RTI -/

theorem exec_rti_eq_next (s : State) : exec .rti s = .next (resolve .imp s).returnFromBreak :=
  (exec_rti s).trans (runOperation_of_not_reports rfl ..)

/-- The return address lies above the status (R633). -/
theorem State.pullWord_pulled (s : State) :
    s.pulled.pullWord = hiLo (s.rd (stackAddr (s.sp + 3))) (s.rd (stackAddr (s.sp + 2))) := by
  have h₂ : s.sp + 1 + 1 = s.sp + 2 := BitVec.add_assoc ..
  have h₃ : s.sp + 1 + 2 = s.sp + 3 := BitVec.add_assoc ..
  rw [State.pullWord_eq, State.pulled_sp, h₂, h₃, State.rd_pulled, State.rd_pulled]

/-- Settles O51: the pulled status bit by bit under each layout, and the pulled word byte by byte. -/
theorem rtiRestoresFlagsAndPc : Obligations.RtiRestoresFlagsAndPc := by
  refine ⟨by decide +kernel, fun s => ?_⟩
  rw [exec_rti_eq_next, State.returnFromBreak, State.pullWord_pulled, resolve_cfg]
  cases s.cfg.flagLayout with
  | nmos => rw [unpackFlags_nmos]; rfl
  | listing => rw [unpackFlags_listing]; rfl

/-! ## A break and the return from it -/

/-- A status packed with `B` and `U` forced comes back with both 1. -/
theorem unpack_pack_forced (f : Flags) (l : FlagLayout) :
    unpackFlags l (f.pack l true) = { f with b := true, u := true } := by
  refine Flags.ext_get fun flag => ?_
  rw [get_unpackFlags, Flags.pack_flagBit]
  cases flag <;> rfl

/-- The return address of a frame is what two pulls give after the status. -/
theorem State.pullWord_pulled_pushFrame (s : State) (ret : Word) : (s.pushFrame ret).pulled.pullWord = ret := by
  obtain ⟨hhi, hlo, -⟩ := s.rd_pushFrame ret
  have h₂ : (s.pushFrame ret).sp + 2 = s.sp - 1 := by rw [State.pushFrame_sp]; bv_omega
  have h₃ : (s.pushFrame ret).sp + 3 = s.sp := by rw [State.pushFrame_sp]; bv_omega
  rw [State.pullWord_pulled, h₂, h₃, hhi, hlo, hiLo_hi8_lo8]

/-- From a state with the memory and the stack pointer that a break of `s` left, the return from a break goes to the
return address with the stack pointer and the flags of `s`, `B` and `U` set. -/
theorem State.returnFromBreak_of_frame {s v : State} (hmem : v.mem = s.takeBreak.mem) (hsp : v.sp = s.takeBreak.sp)
    (hcfg : v.cfg = s.cfg) :
    v.returnFromBreak = { v with
      pc := s.pc + 1
      sp := s.sp
      flags := { s.flags with b := true, u := true } } := by
  have hstatus : v.pullByte = s.flags.pack s.cfg.flagLayout true :=
    calc v.pullByte = (s.pushFrame (s.pc + 1)).pullByte := by
          rw [State.pullByte, State.pullByte, hsp]
          exact State.rd_congr hmem _
      _ = s.flags.pack s.cfg.flagLayout true := (s.pushWord (s.pc + 1)).pullByte_push _
  have hret : v.pulled.pullWord = s.pc + 1 :=
    calc v.pulled.pullWord = (s.pushFrame (s.pc + 1)).pulled.pullWord :=
          State.pullWord_congr hmem (congrArg (· + 1) hsp)
      _ = s.pc + 1 := s.pullWord_pulled_pushFrame (s.pc + 1)
  have hback : v.sp + 3 = s.sp := by
    rw [hsp, State.takeBreak_keeps]
    exact BitVec.sub_add_cancel ..
  rw [State.returnFromBreak, hstatus, hret, hback, hcfg, unpack_pack_forced]

section
variable {s : State} (hp : s.phase = .running) (hi : s.inputs = []) (hc : s.cycles = 0)
include hp hi hc

/-- The ticks of an instruction lead to its state with no cycle left (40_engine.md R405). -/
theorem run_cycles {t : State} {n : Nat} (h : exec s.fetchInstr s.fetched = .next t) (hn : t.cycles = n) :
    core.run n s = .next { t with cycles := 0 } := by
  obtain ⟨-, hrun, -⟩ := instructionTakesItsCycleCount s t hp hc hi h
  rwa [hn] at hrun

/-- Seven ticks at a BRK take the break. -/
theorem run_brk (hop : s.rd s.pc = 0x00) :
    core.run 7 s = .next { (resolve .imp s.fetched).takeBreak with cycles := 0 } := by
  have hfetch : s.fetchInstr = .brk := by rw [State.fetchInstr, hop]; rfl
  refine run_cycles hp hi hc (by rw [hfetch, exec_brk_eq_next]) ?_
  rw [State.takeBreak_cycles, resolve_cycles, State.fetched_cycles, hop]
  rfl

/-- Six ticks at an RTI return from the break. -/
theorem run_rti (hop : s.rd s.pc = 0x40) :
    core.run 6 s = .next { (resolve .imp s.fetched).returnFromBreak with cycles := 0 } := by
  have hfetch : s.fetchInstr = .rti := by rw [State.fetchInstr, hop]; rfl
  refine run_cycles hp hi hc (by rw [hfetch, exec_rti_eq_next]) ?_
  rw [State.returnFromBreak_cycles, resolve_cycles, State.fetched_cycles, hop]
  rfl

end

/-- Settles O52: the break leaves its frame, and the RTI at the handler's boundary finds it. -/
theorem breakAndReturnRoundTrip : Obligations.BreakAndReturnRoundTrip := by
  intro s hp hc hi hop
  refine ⟨_, run_brk hp hi hc hop, rfl, (resolve .imp s.fetched).takeBreak_pc, fun hrti => ?_⟩
  have hback := State.returnFromBreak_of_frame (s := resolve .imp s.fetched)
    (v := resolve .imp { (resolve .imp s.fetched).takeBreak with cycles := 0 }.fetched) rfl rfl (by simp)
  have hrun := run_rti (s := { (resolve .imp s.fetched).takeBreak with cycles := 0 }) (by simpa using hp)
    (by simpa using hi) rfl hrti
  rw [hback] at hrun
  refine ⟨_, hrun, rfl, ?_, ?_, ?_, ?_, rfl, rfl⟩
  · show (resolve .imp s.fetched).pc + 1 = s.pc + 2
    rw [resolve_imp_pc]
    exact BitVec.add_assoc ..
  all_goals simp

end Sys2Proof.Machine
end

section
/-! PROOF. Reset and load (70_reset_and_hazards.md): the idle ticks after a reset (R802), what a reset depends on
(R803), and the program a load writes (R812). -/

namespace Sys2Proof.Machine

/-! ## Reset -/

/-- A reset reads the memory and the configuration of the state it is applied to; of its other fields it keeps the draw
counter and the host's actions alone. -/
theorem State.hostReset_congr {s t : State} (hmem : s.mem = t.mem) (hcfg : s.cfg = t.cfg) (hdraws : s.draws = t.draws)
    (hinputs : s.inputs = t.inputs) : s.hostReset = t.hostReset := by
  ext1
  case pc => rw [State.hostReset_pc, State.hostReset_pc, State.rd_congr hmem, State.rd_congr hmem]
  all_goals simp [hmem, hcfg, hdraws, hinputs]

/-- Settles O15: both steps are a reset, of two states that agree in what a reset depends on. -/
theorem resetForgetsTheStateItIsAppliedTo : Obligations.ResetForgetsTheStateItIsAppliedTo := by
  intro s t rest hs ht hmem hcfg hdraws
  refine ⟨_, step_reset hs, (step_reset ht).trans ?_, rfl⟩
  exact congrArg Host.Outcome.next (State.hostReset_congr hmem.symm hcfg.symm hdraws.symm rfl)

/-! ## The startup cycles -/

/-- A run that goes through goes on from the state it leads to. -/
theorem run_add {s t : State} {j : Nat} (k : Nat) (h : core.run j s = .next t) :
    core.run (j + k) s = core.run k t := by
  induction j generalizing s with
  | zero =>
    obtain rfl : s = t := Host.Outcome.next.inj h
    rw [Nat.zero_add]
  | succ j ih =>
    obtain ⟨v, hs, hv⟩ := run_succ_iff.1 h
    rw [Nat.add_right_comm, run_step _ hs, ih hv]

/-- Settles O17: the ticks after a reset count `cycles` down to the boundary, where the next one executes. -/
theorem firstFetchWaitsForTheStartupCycles : Obligations.FirstFetchWaitsForTheStartupCycles := by
  intro s hi
  have hidle (k : Nat) (hk : k ≤ s.cfg.resetCycles.val) :
      core.run k s.hostReset = .next { s.hostReset with cycles := s.cfg.resetCycles.val - k } :=
    run_idle (s := s.hostReset) rfl hi hk
  refine ⟨hidle, fun t ht => ?_⟩
  have hboundary := hidle _ le_rfl
  rw [Nat.sub_self] at hboundary
  rw [run_add 1 hboundary, run_step 0 (step_executes (s := { s.hostReset with cycles := 0 }) rfl hi rfl ht)]
  rfl

/-! ## The program load -/

/-- Settles O19: the bytes written from the loader's base address on, and what a load leaves alone. -/
theorem loadWritesTheProgramFrom2000 : Obligations.LoadWritesTheProgramFrom2000 := by
  intro s bytes rest hp hi hlen
  have htop : loadBase + bytes.length ≤ 65536 := by rw [loadBase]; omega
  have hfit : fitsBelowTop bytes.length = true := decide_eq_true htop
  have hstep : step s = .next ({ s with inputs := rest }.writeBytes loadBase bytes) := by
    simp only [step_load hi, hostLoad, hp, hfit, if_true]
  refine ⟨_, hstep, State.writeBytes_keeps _ _ _, fun k b hb => ?_, fun a ha => ?_⟩
  · exact State.rd_writeBytes_at _ loadBase bytes htop (by decide) hb
  · exact State.rd_writeBytes_other { s with inputs := rest } loadBase bytes htop ha

end Sys2Proof.Machine
end
